-- ==== Sys2Proof/Word.lean ====
section
/-!
DEFINITION. The word types of the core (spec/00_scope.md R5, R7, R8): every value is an unsigned
number of a stated width, and bit 0 is the least significant bit.
-/

namespace Sys2Proof

/-- A general register, a timer or a byte of memory: 8 bits (XLEN, TIMER_BITS). -/
abbrev Byte := BitVec 8

/-- An opcode, PC, I or a call-stack slot: 16 bits (ILEN, PC_BITS, I_BITS, STACK_BITS). -/
abbrev Word := BitVec 16

/-- The 12-bit address immediate `addr`, also written nnn (spec/30_encoding.md R91). -/
abbrev Addr12 := BitVec 12

/-- The number of a general register, V0 to VF (NREG = 16, spec/10_state.md R20). -/
abbrev RegIdx := Fin 16

/-- VF, the register that doubles as the flag (spec/10_state.md R21). -/
abbrev vf : RegIdx := 15

end Sys2Proof
end

