-- ==== Sys2Proof/Syntax.lean ====
section
/-!
DEFINITION. The instruction set: one constructor per row of spec/opcode_table.json, in its order
(spec/30_encoding.md R95). Operand types are exact (R91, R93): a register number is 0 to 15, kk has
8 bits, addr 12 bits, n is the 4-bit row count of a sprite; so no operand can be out of range.
-/

namespace Sys2Proof

/-- The 29 instructions of the opcode map (spec/30_encoding.md R95). -/
inductive Instr where
  /-- `CLS`, 00E0 (spec/44_display.md R210). -/
  | cls
  /-- `RET`, 00EE (spec/41_control_flow.md R142). -/
  | ret
  /-- `JP addr`, 1nnn (R143). -/
  | jpAddr (addr : Addr12)
  /-- `CALL addr`, 2nnn (R144). -/
  | callAddr (addr : Addr12)
  /-- `SE Vx,kk`, 3xkk (R145). -/
  | seVxKk (x : RegIdx) (kk : Byte)
  /-- `SNE Vx,kk`, 4xkk (R146). -/
  | sneVxKk (x : RegIdx) (kk : Byte)
  /-- `SE Vx,Vy`, 5xy0 (R147). -/
  | seVxVy (x y : RegIdx)
  /-- `LD Vx,kk`, 6xkk (spec/42_load_alu_random.md R160). -/
  | ldVxKk (x : RegIdx) (kk : Byte)
  /-- `ADD Vx,kk`, 7xkk (R161). -/
  | addVxKk (x : RegIdx) (kk : Byte)
  /-- `LD Vx,Vy`, 8xy0 (R162). -/
  | ldVxVy (x y : RegIdx)
  /-- `OR Vx,Vy`, 8xy1 (R163). -/
  | orVxVy (x y : RegIdx)
  /-- `AND Vx,Vy`, 8xy2 (R164). -/
  | andVxVy (x y : RegIdx)
  /-- `XOR Vx,Vy`, 8xy3 (R165). -/
  | xorVxVy (x y : RegIdx)
  /-- `ADD Vx,Vy`, 8xy4 (R166). -/
  | addVxVy (x y : RegIdx)
  /-- `SHR Vx,Vy`, 8xy6 (R167). -/
  | shrVxVy (x y : RegIdx)
  /-- `SHL Vx,Vy`, 8xyE (R168). -/
  | shlVxVy (x y : RegIdx)
  /-- `SNE Vx,Vy`, 9xy0 (spec/41_control_flow.md R148). -/
  | sneVxVy (x y : RegIdx)
  /-- `LD I,addr`, Annn (spec/43_index_memory.md R190). -/
  | ldIAddr (addr : Addr12)
  /-- `RND Vx,kk`, Cxkk (spec/42_load_alu_random.md R169). -/
  | rndVxKk (x : RegIdx) (kk : Byte)
  /-- `DRW Vx,Vy,n`, Dxyn (spec/44_display.md R211). -/
  | drwVxVyN (x y : RegIdx) (n : BitVec 4)
  /-- `SKP Vx`, Ex9E (spec/45_keypad_timers.md R230). -/
  | skpVx (x : RegIdx)
  /-- `SKNP Vx`, ExA1 (R231). -/
  | sknpVx (x : RegIdx)
  /-- `LD Vx,DT`, Fx07 (R232). -/
  | ldVxDt (x : RegIdx)
  /-- `LD DT,Vx`, Fx15 (R233). -/
  | ldDtVx (x : RegIdx)
  /-- `ADD I,Vx`, Fx1E (spec/43_index_memory.md R191). -/
  | addIVx (x : RegIdx)
  /-- `LD F,Vx`, Fx29 (R192). -/
  | ldFVx (x : RegIdx)
  /-- `LD B,Vx`, Fx33 (R193). -/
  | ldBVx (x : RegIdx)
  /-- `LD [I],Vx`, Fx55 (R194). -/
  | ldMemIVx (x : RegIdx)
  /-- `LD Vx,[I]`, Fx65 (R195). -/
  | ldVxMemI (x : RegIdx)
  deriving DecidableEq, Repr

end Sys2Proof
end

