-- ==== Sys2Proof/WellFormed.lean ====
section
/-!
DEFINITION. Well-formedness. `Instr` cannot hold an ill-formed operand: its operand types are exact.
The text that names an instruction can, so the checks stand on a line of the assembler syntax of
spec/30_encoding.md R99 (`MNEMONIC operand,operand,...`), whose operands are plain numbers: the
mnemonic takes that form, a register is V0 to VF, kk fits 8 bits, addr 12 bits, n 4 bits. An
instruction is well-formed when the line that names it is.
-/

namespace Sys2Proof

/-- The mnemonics of the opcode map, each with all its operand forms (spec/30_encoding.md R95, R99). -/
inductive Mnemonic where
  | cls | ret | jp | call | se | sne | ld | add | or | and | xor | shr | shl | rnd | drw | skp | sknp
  deriving DecidableEq, Repr

/-- An operand as it is written (spec/30_encoding.md R99). -/
inductive AsmOperand where
  /-- A general register, V and a number. -/
  | reg (n : Nat)
  /-- A number: kk, addr or n, by its place in the form (notes/assumptions/22.md). -/
  | num (k : Nat)
  /-- The literal operand `I`. -/
  | index
  /-- The literal operand `DT`. -/
  | delay
  /-- The literal operand `F` (font glyph address). -/
  | glyph
  /-- The literal operand `B` (BCD). -/
  | bcd
  /-- The literal operand `[I]` (memory at I). -/
  | atIndex
  deriving DecidableEq, Repr

/-- A line of assembler text (spec/30_encoding.md R99). -/
structure AsmLine where
  mnemonic : Mnemonic
  operands : List AsmOperand
  deriving DecidableEq, Repr

/-- What a form wants at one operand place (spec/30_encoding.md R99). -/
inductive OperandKind where
  | reg | kk | addr | n | index | delay | glyph | bcd | atIndex
  deriving DecidableEq, Repr

/-- Whether an operand fits a place: a register number is at most 15, kk at most 255, addr at most
0xFFF, n at most 15 (spec/30_encoding.md R91, R93). -/
def AsmOperand.fits : AsmOperand → OperandKind → Bool
  | .reg n, .reg => n < 16
  | .num k, .kk => k < 256
  | .num k, .addr => k < 4096
  | .num k, .n => k < 16
  | .index, .index => true
  | .delay, .delay => true
  | .glyph, .glyph => true
  | .bcd, .bcd => true
  | .atIndex, .atIndex => true
  | _, _ => false

/-- The operand forms of a mnemonic: nine for LD, three for ADD, two for SE and SNE, one for every
other (spec/30_encoding.md R95, R99). -/
def Mnemonic.forms : Mnemonic → List (List OperandKind)
  | .cls => [[]]
  | .ret => [[]]
  | .jp => [[.addr]]
  | .call => [[.addr]]
  | .se => [[.reg, .kk], [.reg, .reg]]
  | .sne => [[.reg, .kk], [.reg, .reg]]
  | .ld => [[.reg, .kk], [.reg, .reg], [.index, .addr], [.reg, .delay], [.delay, .reg],
      [.glyph, .reg], [.bcd, .reg], [.atIndex, .reg], [.reg, .atIndex]]
  | .add => [[.reg, .kk], [.reg, .reg], [.index, .reg]]
  | .or => [[.reg, .reg]]
  | .and => [[.reg, .reg]]
  | .xor => [[.reg, .reg]]
  | .shr => [[.reg, .reg]]
  | .shl => [[.reg, .reg]]
  | .rnd => [[.reg, .kk]]
  | .drw => [[.reg, .reg, .n]]
  | .skp => [[.reg]]
  | .sknp => [[.reg]]

/-- Whether operands fit a form, place by place. -/
def operandsFit : List AsmOperand → List OperandKind → Bool
  | [], [] => true
  | o :: os, k :: ks => o.fits k && operandsFit os ks
  | _, _ => false

/-- A line is well-formed when its operands fit one form of its mnemonic. -/
def AsmLine.wf (l : AsmLine) : Bool := l.mnemonic.forms.any (operandsFit l.operands)

/-- The line that names an instruction (spec/30_encoding.md R95, the mnemonic column). -/
def Instr.toAsm : Instr → AsmLine
  | .cls => ⟨.cls, []⟩
  | .ret => ⟨.ret, []⟩
  | .jpAddr a => ⟨.jp, [.num a.toNat]⟩
  | .callAddr a => ⟨.call, [.num a.toNat]⟩
  | .seVxKk x kk => ⟨.se, [.reg x, .num kk.toNat]⟩
  | .sneVxKk x kk => ⟨.sne, [.reg x, .num kk.toNat]⟩
  | .seVxVy x y => ⟨.se, [.reg x, .reg y]⟩
  | .ldVxKk x kk => ⟨.ld, [.reg x, .num kk.toNat]⟩
  | .addVxKk x kk => ⟨.add, [.reg x, .num kk.toNat]⟩
  | .ldVxVy x y => ⟨.ld, [.reg x, .reg y]⟩
  | .orVxVy x y => ⟨.or, [.reg x, .reg y]⟩
  | .andVxVy x y => ⟨.and, [.reg x, .reg y]⟩
  | .xorVxVy x y => ⟨.xor, [.reg x, .reg y]⟩
  | .addVxVy x y => ⟨.add, [.reg x, .reg y]⟩
  | .shrVxVy x y => ⟨.shr, [.reg x, .reg y]⟩
  | .shlVxVy x y => ⟨.shl, [.reg x, .reg y]⟩
  | .sneVxVy x y => ⟨.sne, [.reg x, .reg y]⟩
  | .ldIAddr a => ⟨.ld, [.index, .num a.toNat]⟩
  | .rndVxKk x kk => ⟨.rnd, [.reg x, .num kk.toNat]⟩
  | .drwVxVyN x y n => ⟨.drw, [.reg x, .reg y, .num n.toNat]⟩
  | .skpVx x => ⟨.skp, [.reg x]⟩
  | .sknpVx x => ⟨.sknp, [.reg x]⟩
  | .ldVxDt x => ⟨.ld, [.reg x, .delay]⟩
  | .ldDtVx x => ⟨.ld, [.delay, .reg x]⟩
  | .addIVx x => ⟨.add, [.index, .reg x]⟩
  | .ldFVx x => ⟨.ld, [.glyph, .reg x]⟩
  | .ldBVx x => ⟨.ld, [.bcd, .reg x]⟩
  | .ldMemIVx x => ⟨.ld, [.atIndex, .reg x]⟩
  | .ldVxMemI x => ⟨.ld, [.reg x, .atIndex]⟩

/-- An instruction is well-formed when the line that names it is (every one is: the lemmas of the
family `WellFormed` in Laws/PerInstr.lean). -/
def Instr.wf (i : Instr) : Bool := i.toAsm.wf

end Sys2Proof
end

