-- ==== Sys2Proof/Decode.lean ====
section
/-!
DEFINITION. Decoding (spec/30_encoding.md R90 to R98), the encoder, the opcode table as data (R95),
and the assembler of the syntax of R99. The decoder is total: a word is one of the 29 instructions
or a decode failure under the name of its group in R97.
-/

namespace Sys2Proof

/-- Why bytes are no instruction: the groups of spec/30_encoding.md R97, and too few bytes. -/
inductive Illegal where
  /-- 0nnn except 00E0 and 00EE. -/
  | op0
  /-- 5xyn with n ≠ 0. -/
  | op5LowNibble
  /-- 8xy5, the omitted SUB. -/
  | omittedSub
  /-- 8xy7, the omitted SUBN. -/
  | omittedSubn
  /-- 8xy8 to 8xyD, 8xyF. -/
  | op8LowNibble
  /-- 9xyn with n ≠ 0. -/
  | op9LowNibble
  /-- Bnnn, the omitted jump-with-offset. -/
  | omittedJumpOffset
  /-- Exkk with kk not 9E, A1. -/
  | opELowByte
  /-- Fx0A, the omitted wait-for-keypress. -/
  | omittedWaitKey
  /-- Fx18, the omitted load-sound-timer. -/
  | omittedLoadSound
  /-- Fxkk with any other unlisted kk. -/
  | opFLowByte
  /-- Fewer than the two bytes every instruction has (R90). -/
  | truncated
  deriving DecidableEq, Repr

/-! ## Fields (spec/30_encoding.md R91; slices as in spec/00_scope.md R7) -/

/-- op = opcode[15:12]. -/
def opField (w : Word) : Nat := w.toNat / 4096

/-- x = opcode[11:8]. -/
def xField (w : Word) : RegIdx := Fin.ofNat 16 (w.toNat / 256)

/-- y = opcode[7:4]. -/
def yField (w : Word) : RegIdx := Fin.ofNat 16 (w.toNat / 16)

/-- n = opcode[3:0]. -/
def nField (w : Word) : BitVec 4 := BitVec.ofNat 4 w.toNat

/-- kk = opcode[7:0]. -/
def kkField (w : Word) : Byte := BitVec.ofNat 8 w.toNat

/-- addr = opcode[11:0]. -/
def addrField (w : Word) : Addr12 := BitVec.ofNat 12 w.toNat

/-! ## Decode (spec/30_encoding.md R94) -/

/-- op 0: two words only. -/
def decodeOp0 (w : Word) : Except Illegal Instr :=
  if w = 0x00E0 then .ok .cls else if w = 0x00EE then .ok .ret else .error .op0

/-- op 8: the low nibble selects the operation. PRESUMED (notes/assumptions/8.md): the source does
not give the nibbles; they are the spec's, from general knowledge (R96, G2). -/
def decodeOp8 (w : Word) : Except Illegal Instr :=
  match (nField w).toNat with
  | 0 => .ok (.ldVxVy (xField w) (yField w))
  | 1 => .ok (.orVxVy (xField w) (yField w))
  | 2 => .ok (.andVxVy (xField w) (yField w))
  | 3 => .ok (.xorVxVy (xField w) (yField w))
  | 4 => .ok (.addVxVy (xField w) (yField w))
  | 5 => .error .omittedSub
  | 6 => .ok (.shrVxVy (xField w) (yField w))
  | 7 => .error .omittedSubn
  | 14 => .ok (.shlVxVy (xField w) (yField w))
  | _ => .error .op8LowNibble

/-- op E: the low byte selects. -/
def decodeOpE (w : Word) : Except Illegal Instr :=
  if kkField w = 0x9E then .ok (.skpVx (xField w))
  else if kkField w = 0xA1 then .ok (.sknpVx (xField w))
  else .error .opELowByte

/-- op F: the low byte selects. -/
def decodeOpF (w : Word) : Except Illegal Instr :=
  if kkField w = 0x07 then .ok (.ldVxDt (xField w))
  else if kkField w = 0x15 then .ok (.ldDtVx (xField w))
  else if kkField w = 0x1E then .ok (.addIVx (xField w))
  else if kkField w = 0x29 then .ok (.ldFVx (xField w))
  else if kkField w = 0x33 then .ok (.ldBVx (xField w))
  else if kkField w = 0x55 then .ok (.ldMemIVx (xField w))
  else if kkField w = 0x65 then .ok (.ldVxMemI (xField w))
  else if kkField w = 0x0A then .error .omittedWaitKey
  else if kkField w = 0x18 then .error .omittedLoadSound
  else .error .opFLowByte

/-- The decode procedure: classify by the high nibble, then by the nested low nibble or byte. The
patterns are matched literally (D7). It reads no state (spec/40_step_cycle.md R123). -/
def decode (w : Word) : Except Illegal Instr :=
  match opField w with
  | 0 => decodeOp0 w
  | 1 => .ok (.jpAddr (addrField w))
  | 2 => .ok (.callAddr (addrField w))
  | 3 => .ok (.seVxKk (xField w) (kkField w))
  | 4 => .ok (.sneVxKk (xField w) (kkField w))
  | 5 => if nField w = 0 then .ok (.seVxVy (xField w) (yField w)) else .error .op5LowNibble
  | 6 => .ok (.ldVxKk (xField w) (kkField w))
  | 7 => .ok (.addVxKk (xField w) (kkField w))
  | 8 => decodeOp8 w
  | 9 => if nField w = 0 then .ok (.sneVxVy (xField w) (yField w)) else .error .op9LowNibble
  | 10 => .ok (.ldIAddr (addrField w))
  | 11 => .error .omittedJumpOffset
  | 12 => .ok (.rndVxKk (xField w) (kkField w))
  | 13 => .ok (.drwVxVyN (xField w) (yField w) (nField w))
  | 14 => decodeOpE w
  | _ => decodeOpF w

/-- The 16-bit opcode of two bytes, the byte at the lower address first: `hi * 256 + lo`
(spec/20_memory.md R64, R66). -/
def joinBytes (hi lo : Byte) : Word := BitVec.ofNat 16 (hi.toNat * 256 + lo.toNat)

/-- The byte a fetch finds first: opcode[15:8]. -/
def highByte (w : Word) : Byte := BitVec.ofNat 8 (w.toNat / 256)

/-- The byte a fetch finds second: opcode[7:0]. -/
def lowByte (w : Word) : Byte := BitVec.ofNat 8 w.toNat

/-- Decoding of bytes as they lie in memory: the instruction and the bytes after it. -/
def decodeBytes : List Byte → Except Illegal (Instr × List Byte)
  | hi :: lo :: rest =>
    match decode (joinBytes hi lo) with
    | .ok i => .ok (i, rest)
    | .error e => .error e
  | _ => .error .truncated

/-- The word that the low `nbits` bits of `w` form, numbered as spec/opcode_table.json numbers them:
every instruction is one 16-bit word, bit 0 its least significant bit; bits above `nbits` are 0. -/
def tableWord (nbits w : Nat) : Word := BitVec.ofNat 16 (w % 2 ^ nbits)

/-- The instruction the decoder reads from a word of the opcode table, laid out big-endian as the
hardware stores it. -/
def decodeTableWord (nbits w : Nat) : Option Instr :=
  match decodeBytes [highByte (tableWord nbits w), lowByte (tableWord nbits w)] with
  | .ok (i, _) => some i
  | .error _ => none

/-! ## Encode (spec/30_encoding.md R92) -/

/-- Format ADDR: op, addr. -/
def wordAddr (op : Nat) (addr : Addr12) : Word := BitVec.ofNat 16 (op * 4096 + addr.toNat)

/-- Format XKK: op, x, kk. Format X is the same with the sub-opcode byte in the place of kk. -/
def wordXKK (op : Nat) (x : RegIdx) (kk : Byte) : Word :=
  BitVec.ofNat 16 (op * 4096 + x.val * 256 + kk.toNat)

/-- Format XYN: op, x, y, n. Format XY is the same with the sub-opcode nibble in the place of n. -/
def wordXYN (op : Nat) (x y : RegIdx) (n : BitVec 4) : Word :=
  BitVec.ofNat 16 (op * 4096 + x.val * 256 + y.val * 16 + n.toNat)

/-- The word of an instruction (spec/30_encoding.md R92, R95). -/
def encode : Instr → Word
  | .cls => 0x00E0
  | .ret => 0x00EE
  | .jpAddr a => wordAddr 1 a
  | .callAddr a => wordAddr 2 a
  | .seVxKk x kk => wordXKK 3 x kk
  | .sneVxKk x kk => wordXKK 4 x kk
  | .seVxVy x y => wordXYN 5 x y 0
  | .ldVxKk x kk => wordXKK 6 x kk
  | .addVxKk x kk => wordXKK 7 x kk
  | .ldVxVy x y => wordXYN 8 x y 0
  | .orVxVy x y => wordXYN 8 x y 1
  | .andVxVy x y => wordXYN 8 x y 2
  | .xorVxVy x y => wordXYN 8 x y 3
  | .addVxVy x y => wordXYN 8 x y 4
  | .shrVxVy x y => wordXYN 8 x y 6
  | .shlVxVy x y => wordXYN 8 x y 0xE
  | .sneVxVy x y => wordXYN 9 x y 0
  | .ldIAddr a => wordAddr 10 a
  | .rndVxKk x kk => wordXKK 12 x kk
  | .drwVxVyN x y n => wordXYN 13 x y n
  | .skpVx x => wordXKK 14 x 0x9E
  | .sknpVx x => wordXKK 14 x 0xA1
  | .ldVxDt x => wordXKK 15 x 0x07
  | .ldDtVx x => wordXKK 15 x 0x15
  | .addIVx x => wordXKK 15 x 0x1E
  | .ldFVx x => wordXKK 15 x 0x29
  | .ldBVx x => wordXKK 15 x 0x33
  | .ldMemIVx x => wordXKK 15 x 0x55
  | .ldVxMemI x => wordXKK 15 x 0x65

/-! ## The opcode table as data (spec/30_encoding.md R95) -/

/-- The match and mask columns of one row. -/
structure OpcodeRow where
  bits : Word
  mask : Word
  deriving DecidableEq, Repr

/-- A word matches a row when `(opcode & mask) = match`. -/
def OpcodeRow.accepts (r : OpcodeRow) (w : Word) : Bool := w &&& r.mask == r.bits

/-- The row of an instruction. -/
def Instr.row : Instr → OpcodeRow
  | .cls => ⟨0x00E0, 0xFFFF⟩
  | .ret => ⟨0x00EE, 0xFFFF⟩
  | .jpAddr _ => ⟨0x1000, 0xF000⟩
  | .callAddr _ => ⟨0x2000, 0xF000⟩
  | .seVxKk _ _ => ⟨0x3000, 0xF000⟩
  | .sneVxKk _ _ => ⟨0x4000, 0xF000⟩
  | .seVxVy _ _ => ⟨0x5000, 0xF00F⟩
  | .ldVxKk _ _ => ⟨0x6000, 0xF000⟩
  | .addVxKk _ _ => ⟨0x7000, 0xF000⟩
  | .ldVxVy _ _ => ⟨0x8000, 0xF00F⟩
  | .orVxVy _ _ => ⟨0x8001, 0xF00F⟩
  | .andVxVy _ _ => ⟨0x8002, 0xF00F⟩
  | .xorVxVy _ _ => ⟨0x8003, 0xF00F⟩
  | .addVxVy _ _ => ⟨0x8004, 0xF00F⟩
  | .shrVxVy _ _ => ⟨0x8006, 0xF00F⟩
  | .shlVxVy _ _ => ⟨0x800E, 0xF00F⟩
  | .sneVxVy _ _ => ⟨0x9000, 0xF00F⟩
  | .ldIAddr _ => ⟨0xA000, 0xF000⟩
  | .rndVxKk _ _ => ⟨0xC000, 0xF000⟩
  | .drwVxVyN _ _ _ => ⟨0xD000, 0xF000⟩
  | .skpVx _ => ⟨0xE09E, 0xF0FF⟩
  | .sknpVx _ => ⟨0xE0A1, 0xF0FF⟩
  | .ldVxDt _ => ⟨0xF007, 0xF0FF⟩
  | .ldDtVx _ => ⟨0xF015, 0xF0FF⟩
  | .addIVx _ => ⟨0xF01E, 0xF0FF⟩
  | .ldFVx _ => ⟨0xF029, 0xF0FF⟩
  | .ldBVx _ => ⟨0xF033, 0xF0FF⟩
  | .ldMemIVx _ => ⟨0xF055, 0xF0FF⟩
  | .ldVxMemI _ => ⟨0xF065, 0xF0FF⟩

/-- The 29 rows, in the order of spec/30_encoding.md R95. -/
def opcodeTable : List OpcodeRow :=
  [⟨0x00E0, 0xFFFF⟩, ⟨0x00EE, 0xFFFF⟩, ⟨0x1000, 0xF000⟩, ⟨0x2000, 0xF000⟩, ⟨0x3000, 0xF000⟩,
    ⟨0x4000, 0xF000⟩, ⟨0x5000, 0xF00F⟩, ⟨0x6000, 0xF000⟩, ⟨0x7000, 0xF000⟩, ⟨0x8000, 0xF00F⟩] ++
  [⟨0x8001, 0xF00F⟩, ⟨0x8002, 0xF00F⟩, ⟨0x8003, 0xF00F⟩, ⟨0x8004, 0xF00F⟩, ⟨0x8006, 0xF00F⟩,
    ⟨0x800E, 0xF00F⟩, ⟨0x9000, 0xF00F⟩, ⟨0xA000, 0xF000⟩, ⟨0xC000, 0xF000⟩, ⟨0xD000, 0xF000⟩] ++
  [⟨0xE09E, 0xF0FF⟩, ⟨0xE0A1, 0xF0FF⟩, ⟨0xF007, 0xF0FF⟩, ⟨0xF015, 0xF0FF⟩, ⟨0xF01E, 0xF0FF⟩,
    ⟨0xF029, 0xF0FF⟩, ⟨0xF033, 0xF0FF⟩, ⟨0xF055, 0xF0FF⟩, ⟨0xF065, 0xF0FF⟩]

/-! ## The assembler (spec/30_encoding.md R99) -/

/-- A register operand, V0 to VF. -/
def asmReg (n : Nat) : Option RegIdx := if n < 16 then some (Fin.ofNat 16 n) else none

/-- A number operand of `w` bits. -/
def asmNum (w k : Nat) : Option (BitVec w) := if k < 2 ^ w then some (BitVec.ofNat w k) else none

/-- `OP Vx`. -/
def asmX (f : RegIdx → Instr) (x : Nat) : Option Instr := (asmReg x).map f

/-- `OP Vx,kk`. -/
def asmXKK (f : RegIdx → Byte → Instr) (x kk : Nat) : Option Instr :=
  (asmReg x).bind fun rx => (asmNum 8 kk).map (f rx)

/-- `OP Vx,Vy`. -/
def asmXY (f : RegIdx → RegIdx → Instr) (x y : Nat) : Option Instr :=
  (asmReg x).bind fun rx => (asmReg y).map (f rx)

/-- `OP addr`. -/
def asmAddr (f : Addr12 → Instr) (a : Nat) : Option Instr := (asmNum 12 a).map f

/-- The instruction a line names, if it is well-formed: a line is refused exactly when `AsmLine.wf`
refuses it. -/
def assemble (l : AsmLine) : Option Instr :=
  match l.mnemonic, l.operands with
  | .cls, [] => some .cls
  | .ret, [] => some .ret
  | .jp, [.num a] => asmAddr .jpAddr a
  | .call, [.num a] => asmAddr .callAddr a
  | .se, [.reg x, .num kk] => asmXKK .seVxKk x kk
  | .se, [.reg x, .reg y] => asmXY .seVxVy x y
  | .sne, [.reg x, .num kk] => asmXKK .sneVxKk x kk
  | .sne, [.reg x, .reg y] => asmXY .sneVxVy x y
  | .ld, [.reg x, .num kk] => asmXKK .ldVxKk x kk
  | .ld, [.reg x, .reg y] => asmXY .ldVxVy x y
  | .ld, [.index, .num a] => asmAddr .ldIAddr a
  | .ld, [.reg x, .delay] => asmX .ldVxDt x
  | .ld, [.delay, .reg x] => asmX .ldDtVx x
  | .ld, [.glyph, .reg x] => asmX .ldFVx x
  | .ld, [.bcd, .reg x] => asmX .ldBVx x
  | .ld, [.atIndex, .reg x] => asmX .ldMemIVx x
  | .ld, [.reg x, .atIndex] => asmX .ldVxMemI x
  | .add, [.reg x, .num kk] => asmXKK .addVxKk x kk
  | .add, [.reg x, .reg y] => asmXY .addVxVy x y
  | .add, [.index, .reg x] => asmX .addIVx x
  | .or, [.reg x, .reg y] => asmXY .orVxVy x y
  | .and, [.reg x, .reg y] => asmXY .andVxVy x y
  | .xor, [.reg x, .reg y] => asmXY .xorVxVy x y
  | .shr, [.reg x, .reg y] => asmXY .shrVxVy x y
  | .shl, [.reg x, .reg y] => asmXY .shlVxVy x y
  | .rnd, [.reg x, .num kk] => asmXKK .rndVxKk x kk
  | .drw, [.reg x, .reg y, .num n] =>
    (asmReg x).bind fun rx => (asmReg y).bind fun ry => (asmNum 4 n).map (.drwVxVyN rx ry)
  | .skp, [.reg x] => asmX .skpVx x
  | .sknp, [.reg x] => asmX .sknpVx x
  | _, _ => none

end Sys2Proof
end

