-- ==== Sys2Proof/Config.lean ====
section
/-!
DEFINITION. What is fixed for one machine and is no state (spec/00_scope.md R5, R6; spec/10_state.md
R37): the source's fixed parameters, the decided ones, and the open ones. An open parameter with no
default is a constant without a body, so that nothing can be proved of its value.
-/

namespace Sys2Proof.Config

/-- MEM_SIZE: bytes of memory, addresses 0x000 to 0xFFF (R5). -/
abbrev memSize : Nat := 4096

/-- FONT_SIZE: 16 glyphs of 5 bytes from address FONT_BASE = 0 (R5). -/
abbrev fontSize : Nat := 80

/-- GLYPH_BYTES: bytes per glyph (R5). -/
abbrev glyphBytes : Nat := 5

/-- PROG_BASE: address of the first program byte (R5). -/
abbrev progBase : Nat := 0x200

/-- PROG_MAX: the largest program length in bytes, 4096 − 0x200 (R5). -/
abbrev progMax : Nat := 3584

/-- STACK_DEPTH: call-stack slots (R5). -/
abbrev stackDepth : Nat := 16

/-- FB_W: framebuffer width in cells (R5). -/
abbrev fbWidth : Nat := 64

/-- FB_H: framebuffer height in cells (R5). -/
abbrev fbHeight : Nat := 32

/-- FB_CELLS = FB_W × FB_H (R5). -/
abbrev fbCells : Nat := 2048

/-- FONT, digits 0 to 3. PRESUMED (notes/assumptions/6.md): the spec's default table, which it takes
from general knowledge (spec/10_state.md R27, G1). -/
def font03 : List Byte :=
  [0xF0, 0x90, 0x90, 0x90, 0xF0] ++ [0x20, 0x60, 0x20, 0x20, 0x70] ++
  [0xF0, 0x10, 0xF0, 0x80, 0xF0] ++ [0xF0, 0x10, 0xF0, 0x10, 0xF0]

/-- FONT, digits 4 to 7 (as `font03`). -/
def font47 : List Byte :=
  [0x90, 0x90, 0xF0, 0x10, 0x10] ++ [0xF0, 0x80, 0xF0, 0x10, 0xF0] ++
  [0xF0, 0x80, 0xF0, 0x90, 0xF0] ++ [0xF0, 0x10, 0x20, 0x40, 0x40]

/-- FONT, digits 8 to B (as `font03`). -/
def font8B : List Byte :=
  [0xF0, 0x90, 0xF0, 0x90, 0xF0] ++ [0xF0, 0x90, 0xF0, 0x10, 0xF0] ++
  [0xF0, 0x90, 0xF0, 0x90, 0x90] ++ [0xE0, 0x90, 0xE0, 0x90, 0xE0]

/-- FONT, digits C to F (as `font03`). -/
def fontCF : List Byte :=
  [0xF0, 0x80, 0x80, 0x80, 0xF0] ++ [0xE0, 0x90, 0x90, 0x90, 0xE0] ++
  [0xF0, 0x80, 0xF0, 0x80, 0xF0] ++ [0xF0, 0x80, 0xF0, 0x80, 0x80]

/-- FONT: the 80 bytes preloaded at 0x000 to 0x04F (spec/10_state.md R27). -/
def font : List Byte := font03 ++ font47 ++ font8B ++ fontCF

/-- The byte address `a` holds right after reset (spec/10_state.md R26, R38): FONT[a] in the font
table, 0 everywhere else. It is what an address that memory does not list reads as. -/
def resetByte (a : Nat) : Byte := if a < fontSize then font.getD a 0 else 0

/-- The values of the parameter SHIFT_SOURCE (spec/00_scope.md R6, D8). -/
inductive ShiftSource where
  /-- SHR and SHL shift V[x] in place; y is decoded and not used. -/
  | vx
  /-- SHR and SHL shift V[y] into V[x]. -/
  | vy
  deriving DecidableEq, Repr, Inhabited

/-- SHIFT_SOURCE: open, with no default (D8). DESIGN CHOICE (notes/assumptions/7.md): a constant
without a body, so that a claim about a shift holds for both values. -/
opaque shiftSource : ShiftSource

/-- The values of TICK_MODE (spec/00_scope.md R6, D18). -/
inductive TickMode where
  /-- Every step that does not fault ends with one Tick. -/
  | coupled
  /-- A step does not tick; the host has a `tick` event of its own (spec/60_exceptions.md R266). -/
  | decoupled
  deriving DecidableEq, Repr

/-- TICK_MODE: the spec decides COUPLED (D18, C6; notes/assumptions/9.md). -/
def tickMode : TickMode := .coupled

/-- The sequence of bytes the live random source returns: RNG_SEED and RNG_NEXT are open (D19), and
this constant without a body stands for the bytes they yield one after the other. DESIGN CHOICE
(notes/assumptions/4.md): nothing constrains any of them. -/
opaque randomByte : Nat → Byte

/-- What a fixed-sequence source returns past its last byte: no source defines it
(spec/42_load_alu_random.md R171, U17). DESIGN CHOICE (notes/assumptions/5.md): a free byte. -/
opaque pastEndByte : Nat → Byte

end Sys2Proof.Config
end

