-- ==== Sys2Proof/Machine/State.lean ====
section
/-!
DEFINITION. The state of the core (spec/10_state.md R20 to R37), its value right after reset (R38),
and the reasons a step can stop. All of it is plain data.
-/

namespace Sys2Proof.Machine

open Sys2Proof

/-- Memory: the bytes that differ from their reset contents, as (address, byte) pairs in one
canonical form (`Memory.wf`): addresses strictly rising and below 4096, no byte equal to
`Config.resetByte` of its address, which is what an unlisted address reads as
(spec/10_state.md R26, R38; notes/assumptions/12.md). -/
abbrev Memory := List Host.Cell

/-- The framebuffer: 32 rows of 64 one-bit cells; cell fb[Y * 64 + X] is bit X of row Y
(spec/10_state.md R28; notes/assumptions/16.md). -/
abbrev Framebuffer := Vector (BitVec 64) 32

/-- The control state `mode` (spec/10_state.md R32, spec/40_step_cycle.md R120). -/
inductive Mode where
  | run
  | halt
  deriving DecidableEq, Repr

/-- The fault causes of a step (spec/60_exceptions.md R250); their codes are `FaultCause.code`. -/
inductive FaultCause where
  | decodeFailure
  | memoryOutOfBounds
  | stackOverflow
  | stackUnderflow
  | keyIndexOutOfRange
  deriving DecidableEq, Repr

/-- RNG_STATE, as the source's tagged variant, a live or a fixed-sequence source
(spec/10_state.md R31, spec/42_load_alu_random.md R171; notes/assumptions/4.md, 5.md). -/
inductive RandomSource where
  /-- The live source after `drawn` bytes: byte k of it is the free value `Config.randomByte k`. -/
  | live (drawn : Nat)
  /-- A fixed-sequence source with `rest` still to come; `past` counts the bytes drawn after its end. -/
  | fixedSequence (rest : List Byte) (past : Nat)
  deriving DecidableEq, Repr

/-- The state of the core: exactly the list of spec/10_state.md R37, and the two ports `keys` and
`beep`, which are no state of the core (R34, R35) and stand here because `step` takes and answers
a state only (notes/assumptions/2.md, 3.md). -/
structure State where
  /-- V[0] to V[15] (R20); V[15] is VF (R21). -/
  v : Vector Byte 16
  /-- The address register I (R22). -/
  iReg : Word
  /-- The program counter: the address of the next instruction, and during execute the address of
  the instruction executing (R23). -/
  pc : Word
  /-- SP, 0 to 16: the next free slot (R24; notes/assumptions/14.md). -/
  sp : Fin 17
  /-- stack[0] to stack[15] (R25). -/
  stack : Vector Word 16
  /-- mem[0] to mem[4095] (R26). -/
  mem : Memory
  /-- fb[0] to fb[2047] (R28). -/
  fb : Framebuffer
  /-- The delay timer DT (R29). -/
  dt : Byte
  /-- The sound timer ST (R30). -/
  st : Byte
  /-- The random source state (R31). -/
  rng : RandomSource
  /-- RUN or HALT (R32). -/
  mode : Mode
  /-- FCAUSE (R33). -/
  fcause : BitVec 3
  /-- FOPCODE (R33). -/
  fopcode : Word
  /-- FPC (R33). -/
  fpc : Word
  /-- FADDR (R33). -/
  faddr : BitVec 17
  /-- Input port: the keypad input of the next step request, bit i for key i (R34). -/
  keys : Word
  /-- Output port: the beep output of the last step (R35). -/
  beep : Bool
  deriving DecidableEq, Repr

/-- The reasons the machine stops with no next state: none. A fault of this core has an entry that the
spec describes (spec/60_exceptions.md R257) and is therefore a NEXT state, in HALT, which `raise`
and the step produce (notes/assumptions/1.md); so there is no constructor, nobody raises one, and
that is safe. -/
inductive Fault where
  deriving DecidableEq, Repr

/-- The refusals of the model. -/
inductive Refusal where
  /-- The instruction has no meaning in the model yet: raised by its arm of `exec`, by name. Safe.
  No arm raises it: every instruction has its meaning. -/
  | notModelled (mnemonic : String)
  deriving DecidableEq, Repr

/-- What an instruction or a step answers. -/
abbrev Result := Host.Outcome State Fault Refusal

/-- The state right after `reset` (spec/10_state.md R38, spec/70_reset_and_hazards.md R300). DESIGN
CHOICE for the three values the spec does not give: `rng` (notes/assumptions/4.md), `keys` (2.md)
and `beep` (3.md). -/
def State.reset : State where
  v := Vector.replicate 16 0
  iReg := 0
  pc := 0x200
  sp := 0
  stack := Vector.replicate 16 0
  mem := []
  fb := Vector.replicate 32 0
  dt := 0
  st := 0
  rng := .live 0
  mode := .run
  fcause := 0
  fopcode := 0
  fpc := 0
  faddr := 0
  keys := 0
  beep := false

end Sys2Proof.Machine
end

