-- ==== Sys2Proof/Machine/Ops.lean ====
section
/-!
DEFINITION. The named operations over registers, memory, call stack, framebuffer, keypad, random
source and timers (the primitives of spec/00_scope.md R9), taking a fault as one shared operation
(spec/60_exceptions.md R257), and the parts of a step around the instruction.
-/

namespace Sys2Proof.Machine

open Sys2Proof

/-! ## Registers (spec/10_state.md R20 to R23) -/

/-- `V[r]`. -/
def State.reg (s : State) (r : RegIdx) : Byte := s.v[r.val]

/-- `V[r] <- b`. No register is hardwired (R20). -/
def State.setReg (s : State) (r : RegIdx) (b : Byte) : State :=
  { s with v := s.v.set r.val b r.isLt }

/-- `I <- a`. -/
def State.setI (s : State) (a : Word) : State := { s with iReg := a }

/-- `pc <- target`. -/
def State.setPc (s : State) (target : Word) : State := { s with pc := target }

/-- `pc <- pc + 2` (spec/40_step_cycle.md R124). DESIGN CHOICE (notes/assumptions/10.md): a sum that
does not fit 16 bits wraps, which no state that keeps `State.inv` shows. -/
def State.fallThrough (s : State) : State := s.setPc (s.pc + 2)

/-- `pc <- pc + 4`, a taken skip (R124; as `State.fallThrough` for a sum that does not fit). -/
def State.skipNext (s : State) : State := s.setPc (s.pc + 4)

/-- A skip instruction's end: `pc <- taken ? pc + 4 : pc + 2`. -/
def State.skipIf (s : State) (taken : Bool) : State :=
  if taken then s.skipNext else s.fallThrough

/-- `mem <- m`. -/
def State.setMem (s : State) (m : Memory) : State := { s with mem := m }

/-- `fb <- f`. -/
def State.setFb (s : State) (f : Framebuffer) : State := { s with fb := f }

/-- `DT <- b`. -/
def State.setDt (s : State) (b : Byte) : State := { s with dt := b }

/-- `rng <- g`. -/
def State.setRng (s : State) (g : RandomSource) : State := { s with rng := g }

/-- The host sets the keypad input between two steps (spec/10_state.md R34). -/
def State.setKeys (s : State) (k : Word) : State := { s with keys := k }

/-- The beep output port. -/
def State.setBeep (s : State) (b : Bool) : State := { s with beep := b }

/-! ## Memory (spec/20_memory.md) -/

/-- The byte at an address: the listed one, else the reset contents. -/
def Memory.byteAt : Memory → Nat → Byte
  | [], a => Config.resetByte a
  | (b, v) :: rest, a => if a = b then v else Memory.byteAt rest a

/-- `mem[a] <- v`, keeping the canonical form: a byte equal to its reset contents is not listed. -/
def Memory.put : Memory → Nat → Byte → Memory
  | [], a, v => if v = Config.resetByte a then [] else [(a, v)]
  | (b, w) :: rest, a, v =>
    if a < b then (if v = Config.resetByte a then (b, w) :: rest else (a, v) :: (b, w) :: rest)
    else if a = b then (if v = Config.resetByte a then rest else (a, v) :: rest)
    else (b, w) :: Memory.put rest a v

/-- The canonical form: addresses strictly rising, each in 0 to 4095, no entry equal to what an
unlisted address reads as. -/
abbrev Memory.wf (m : Memory) : Prop :=
  m.Pairwise (fun c d => c.1 < d.1) ∧ ∀ c ∈ m, c.1 < Config.memSize ∧ c.2 ≠ Config.resetByte c.1

/-- The bounds check of an access to `count` bytes at `base`, base + 1, ..., made on the last address
before anything is read or written (spec/20_memory.md R62 to R65): the first address above 4095 that
the access would touch, `max(base, 4096)`, if there is one. No byte, no check. -/
def firstInvalid (base count : Nat) : Option Nat :=
  if count > 0 ∧ base + count - 1 > 4095 then some (max base 4096) else none

/-- `count` bytes from `base`, by ascending address (spec/20_memory.md R66). -/
def bytesFrom (m : Memory) (base count : Nat) : List Byte :=
  (List.range count).map fun k => m.byteAt (base + k)

/-- Bytes written from `base`, by ascending address (spec/20_memory.md R66). -/
def putBytes : Memory → Nat → List Byte → Memory
  | m, _, [] => m
  | m, base, b :: rest => putBytes (m.put base b) (base + 1) rest

/-- A read of `count` bytes at `base`: all of them, or the address a MemoryOutOfBounds reports. -/
def readBytes (m : Memory) (base count : Nat) : Except Nat (List Byte) :=
  match firstInvalid base count with
  | some a => .error a
  | none => .ok (bytesFrom m base count)

/-- A write of bytes at `base`: all of them, or the address a MemoryOutOfBounds reports. -/
def writeBytes (m : Memory) (base : Nat) (bytes : List Byte) : Except Nat Memory :=
  match firstInvalid base bytes.length with
  | some a => .error a
  | none => .ok (putBytes m base bytes)

/-! ## Call stack (spec/41_control_flow.md R140, R141) -/

/-- `Push(a)`: none is StackOverflow, when SP = 16. -/
def push (a : Word) (s : State) : Option State :=
  if h : s.sp.val < 16 then
    some { s with stack := s.stack.set s.sp.val a h, sp := ⟨s.sp.val + 1, by omega⟩ }
  else none

/-- `Pop()`: none is StackUnderflow, when SP = 0. The slot keeps its value (spec/10_state.md R25). -/
def pop (s : State) : Option (Word × State) :=
  if h : 0 < s.sp.val then
    some (s.stack[s.sp.val - 1], { s with sp := ⟨s.sp.val - 1, by omega⟩ })
  else none

/-! ## Framebuffer (spec/10_state.md R28, spec/44_display.md R211) -/

/-- `fb[c]`, c = Y * 64 + X. -/
def Framebuffer.cell (f : Framebuffer) (c : Nat) : Bool :=
  if h : c / 64 < 32 then f[c / 64].getLsbD (c % 64) else false

/-- `fb[c] <- 1 - fb[c]`. -/
def Framebuffer.toggle (f : Framebuffer) (c : Nat) : Framebuffer :=
  if h : c / 64 < 32 then f.set (c / 64) (f[c / 64] ^^^ (1#64 <<< (c % 64))) h else f

/-- All cells off (spec/44_display.md R210). -/
def Framebuffer.clear : Framebuffer := Vector.replicate 32 0

/-- The cell of a pixel: coordinates wrap around the plane's edges, per pixel. -/
def cellIndex (x y : Nat) : Nat := y % 32 * 64 + x % 64

/-- One bit of a sprite row, k = 0 the leftmost (most significant) one: a set bit toggles its cell,
and a toggle from on to off is a hit. -/
def drawPixel (x0 y : Nat) (row : Byte) (p : Framebuffer × Bool) (k : Nat) : Framebuffer × Bool :=
  if row.getLsbD (7 - k) then
    (p.1.toggle (cellIndex (x0 + k) y), p.2 || p.1.cell (cellIndex (x0 + k) y))
  else p

/-- One sprite row, left to right. -/
def drawRow (x0 y : Nat) (row : Byte) (p : Framebuffer × Bool) : Framebuffer × Bool :=
  (List.range 8).foldl (drawPixel x0 y row) p

/-- The rows of a sprite, top to bottom, from plane row `y` downwards. -/
def drawRows (x0 : Nat) : Nat → List Byte → Framebuffer × Bool → Framebuffer × Bool
  | _, [], p => p
  | y, row :: rest, p => drawRows x0 (y + 1) rest (drawRow x0 y row p)

/-- A sprite at (x0, y0): the framebuffer after it, and whether any cell went from on to off. -/
def drawSprite (x0 y0 : Nat) (rows : List Byte) (f : Framebuffer) : Framebuffer × Bool :=
  drawRows x0 y0 rows (f, false)

/-! ## Keypad and random source -/

/-- `Key(i)` (spec/45_keypad_timers.md R234): none is KeyIndexOutOfRange. -/
def keyState (s : State) (i : Byte) : Option Bool :=
  if i.toNat > 15 then none else some (s.keys.getLsbD i.toNat)

/-- `NextByte()` (spec/42_load_alu_random.md R171): the byte and the source after it. The live source
and a fixed sequence past its end give free values (notes/assumptions/4.md, 5.md). -/
def nextByte : RandomSource → Byte × RandomSource
  | .live k => (Config.randomByte k, .live (k + 1))
  | .fixedSequence (b :: rest) past => (b, .fixedSequence rest past)
  | .fixedSequence [] past => (Config.pastEndByte past, .fixedSequence [] (past + 1))

/-! ## Timers (spec/60_exceptions.md R263) -/

/-- One decrement toward zero, never below. -/
def countDown (t : Byte) : Byte := if t = 0 then 0 else t - 1

/-- `Tick()`: both timers, and the beep when it finds ST = 1. -/
def tick (s : State) : State :=
  { s with dt := countDown s.dt, st := countDown s.st, beep := decide (s.st = 1) }

/-! ## Faults (spec/60_exceptions.md) -/

/-- The cause codes of R250. -/
def FaultCause.code : FaultCause → BitVec 3
  | .decodeFailure => 1
  | .memoryOutOfBounds => 2
  | .stackOverflow => 3
  | .stackUnderflow => 4
  | .keyIndexOutOfRange => 5

/-- Fault entry (R257): the four fault registers and mode are written, the beep output is false, and
nothing else changes; `w` is the opcode (0 if the fetch faulted) and `a` the address (0 unless
MemoryOutOfBounds). There is no return from a fault (R260): only reset leaves HALT. -/
def takeFault (c : FaultCause) (w : Word) (a : Nat) (s : State) : State :=
  { s with
    fcause := c.code, fopcode := w, fpc := s.pc, faddr := BitVec.ofNat 17 a,
    mode := .halt, beep := false }

/-- `raise` of an instruction's execute phase: FOPCODE is the instruction's word, which is the word
fetched since each legal word has one instruction (notes/assumptions/11.md). -/
def raise (c : FaultCause) (i : Instr) (a : Nat) (s : State) : Result :=
  .next (takeFault c (encode i) a s)

/-! ## The parts of a step around the instruction (spec/40_step_cycle.md) -/

/-- The fetch (R122): two bytes at pc and pc + 1, big-endian, or the address it faults with. -/
def fetch (s : State) : Except Nat Word :=
  match readBytes s.mem s.pc.toNat 2 with
  | .error a => .error a
  | .ok bytes => .ok (joinBytes (bytes.getD 0 0) (bytes.getD 1 0))

/-- A fetch that faults: FOPCODE records 0 (R122). -/
def fetchFault (a : Nat) (s : State) : State := takeFault .memoryOutOfBounds 0 a s

/-- A decode failure: FOPCODE records the word (R123, spec/60_exceptions.md R251). -/
def decodeFault (w : Word) (s : State) : State := takeFault .decodeFailure w 0 s

/-- After execute (R125): one Tick when coupled and no fault was raised; decoupled, a step does not
tick and its beep output is false (spec/60_exceptions.md R266). -/
def afterExecute (m : Config.TickMode) (s : State) : State :=
  match s.mode, m with
  | .halt, _ => s
  | .run, .coupled => tick s
  | .run, .decoupled => s.setBeep false

/-- `afterExecute` of what the instruction answered. -/
def finishStep (m : Config.TickMode) : Result → Result
  | .next s => .next (afterExecute m s)
  | .fault f => .fault f
  | .refused r => .refused r

/-- A step request in HALT (R127): no state changes, and the beep output is false. -/
def haltedStep (s : State) : State := s.setBeep false

/-! ## Placing a word where the next step fetches it (notes/assumptions/13.md) -/

/-- RUN with no fault recorded: a halted state's mode and fault registers at their reset values. -/
def State.running (s : State) : State :=
  match s.mode with
  | .run => s
  | .halt => { s with mode := .run, fcause := 0, fopcode := 0, fpc := 0, faddr := 0 }

/-- Where a word can be placed: at PC, or at 0x200 when PC has no room for two bytes. -/
def fetchRoom (s : State) : Word := if s.pc.toNat + 1 < 4096 then s.pc else 0x200

/-- The state whose next step fetches `w`. -/
def placeWord (s : State) (w : Word) : State :=
  ((s.setMem (putBytes s.mem (fetchRoom s).toNat [highByte w, lowByte w])).setPc
    (fetchRoom s)).running

end Sys2Proof.Machine
end

