-- ==== Sys2Proof/Machine/Operands.lean ====
section
/-!
DEFINITION. The operand forms: what an instruction's fields and implicit operands name
(spec/30_encoding.md R93), and the values computed from them.
-/

namespace Sys2Proof.Machine

open Sys2Proof

/-- `zext_16(addr)`: a 12-bit immediate as a PC or I value (R93). -/
def addrValue (addr : Addr12) : Word := addr.setWidth 16

/-- The effective address of byte 0 of an access: I, as a natural number, so that I + i never wraps
(spec/43_index_memory.md, opening; spec/20_memory.md R62). -/
def baseAddr (s : State) : Nat := s.iReg.toNat

/-- The implicit register range V[0] to V[x], in order (Fx55). -/
def regRange (s : State) (x : RegIdx) : List Byte :=
  (List.range (x.val + 1)).map fun k => s.reg (Fin.ofNat 16 k)

/-- V[0], V[1], ... written with the bytes of a list, from register `k` upwards (Fx65). -/
def loadRegs : Nat → List Byte → State → State
  | _, [], s => s
  | k, b :: rest, s => loadRegs (k + 1) rest (s.setReg (Fin.ofNat 16 k) b)

/-- The register SHR and SHL shift, by SHIFT_SOURCE (spec/42_load_alu_random.md R167, R168). -/
def shiftOperand (src : Config.ShiftSource) (x y : RegIdx) (s : State) : Byte :=
  match src with
  | .vx => s.reg x
  | .vy => s.reg y

/-- `I + V[x]` unreduced (spec/43_index_memory.md R191). -/
def indexSum (s : State) (x : RegIdx) : Nat := s.iReg.toNat + (s.reg x).toNat

/-- The glyph address `v * 5`, not masked (spec/43_index_memory.md R192). -/
def glyphAddr (v : Byte) : Word := BitVec.ofNat 16 (v.toNat * Config.glyphBytes)

/-- Hundreds, tens and ones of a byte (spec/43_index_memory.md R193). -/
def bcdDigits (v : Byte) : List Byte :=
  [BitVec.ofNat 8 (v.toNat / 100), BitVec.ofNat 8 (v.toNat / 10 % 10), BitVec.ofNat 8 (v.toNat % 10)]

/-- The sprite rows of `DRW`: n bytes at I (spec/44_display.md R211). -/
def spriteRows (s : State) (n : BitVec 4) : Except Nat (List Byte) :=
  readBytes s.mem (baseAddr s) n.toNat

end Sys2Proof.Machine
end

