-- ==== Sys2Proof/Machine/ControlFlow.lean ====
section
/-!
DEFINITION. The meanings of RET, JP, CALL and the four register skips (spec/41_control_flow.md).
-/

namespace Sys2Proof.Machine

open Sys2Proof

/-- `RET` (R142): `pc <- Pop() + 2`; StackUnderflow when SP = 0. A sum that does not fit 16 bits wraps
(notes/assumptions/10.md). -/
def execRet (s : State) : Result :=
  match pop s with
  | none => raise .stackUnderflow .ret 0 s
  | some (a, s') => .next (s'.setPc (a + 2))

/-- `JP addr` (R143). -/
def execJpAddr (addr : Addr12) (s : State) : Result := .next (s.setPc (addrValue addr))

/-- `CALL addr` (R144): pushes the address of the CALL itself; StackOverflow when SP = 16. -/
def execCallAddr (addr : Addr12) (s : State) : Result :=
  match push s.pc s with
  | none => raise .stackOverflow (.callAddr addr) 0 s
  | some s' => .next (s'.setPc (addrValue addr))

/-- `SE Vx,kk` (R145). -/
def execSeVxKk (x : RegIdx) (kk : Byte) (s : State) : Result :=
  .next (s.skipIf (s.reg x == kk))

/-- `SNE Vx,kk` (R146). -/
def execSneVxKk (x : RegIdx) (kk : Byte) (s : State) : Result :=
  .next (s.skipIf (s.reg x != kk))

/-- `SE Vx,Vy` (R147). -/
def execSeVxVy (x y : RegIdx) (s : State) : Result :=
  .next (s.skipIf (s.reg x == s.reg y))

/-- `SNE Vx,Vy` (R148). -/
def execSneVxVy (x y : RegIdx) (s : State) : Result :=
  .next (s.skipIf (s.reg x != s.reg y))

end Sys2Proof.Machine
end

