-- ==== Sys2Proof/Machine/Flags.lean ====
section
/-!
DEFINITION. The four values VF receives as a flag (spec/10_state.md R21). VF is written after the
result, so that it ends as the flag when it is also the destination (D9).
-/

namespace Sys2Proof.Machine

open Sys2Proof

/-- A flag as the value 0 or 1 of VF. -/
def flagByte (b : Bool) : Byte := if b then 1 else 0

/-- Carry out of `ADD Vx,Vy`: 1 when the sum exceeds 255 (spec/42_load_alu_random.md R166). -/
def carryFlag (a b : Byte) : Byte := flagByte (decide (a.toNat + b.toNat > 255))

/-- The bit `SHR` shifts out, bit 0 of the source value (R167). -/
def lsbFlag (a : Byte) : Byte := flagByte (a.getLsbD 0)

/-- The bit `SHL` shifts out, bit 7 of the source value (R168). -/
def msbFlag (a : Byte) : Byte := flagByte (a.getLsbD 7)

/-- The collision flag of `DRW` (spec/44_display.md R211). -/
def collisionFlag (hit : Bool) : Byte := flagByte hit

/-- Write a result to V[x] and then its flag to VF (D9, D16). -/
def State.setRegFlag (s : State) (x : RegIdx) (result flag : Byte) : State :=
  (s.setReg x result).setReg vf flag

end Sys2Proof.Machine
end

