-- ==== Sys2Proof/Machine/Display.lean ====
section
/-!
DEFINITION. The meanings of CLS and DRW (spec/44_display.md), the only instructions that touch the
framebuffer.
-/

namespace Sys2Proof.Machine

open Sys2Proof

/-- `CLS` (R210): VF is not written. -/
def execCls (s : State) : Result := .next (s.setFb Framebuffer.clear).fallThrough

/-- `DRW Vx,Vy,n` (R211): coordinates are read first, the sprite range is checked, cells are toggled,
and VF is written last with the collision. n = 0 draws no row, reads nothing and writes VF = 0
(D15). -/
def execDrwVxVyN (x y : RegIdx) (n : BitVec 4) (s : State) : Result :=
  match spriteRows s n with
  | .error a => raise .memoryOutOfBounds (.drwVxVyN x y n) a s
  | .ok rows =>
    let drawn := drawSprite (s.reg x).toNat (s.reg y).toNat rows s.fb
    .next ((s.setFb drawn.1).setReg vf (collisionFlag drawn.2)).fallThrough

end Sys2Proof.Machine
end

