-- ==== Sys2Proof/Machine/IndexMemory.lean ====
section
/-!
DEFINITION. The meanings of the address-register and memory instructions (spec/43_index_memory.md).
I is changed by the first three only (D14).
-/

namespace Sys2Proof.Machine

open Sys2Proof

/-- `LD I,addr` (R190). -/
def execLdIAddr (addr : Addr12) (s : State) : Result := .next (s.setI (addrValue addr)).fallThrough

/-- `ADD I,Vx` (R191): MemoryOutOfBounds with the 17-bit sum when it does not fit 16 bits; VF is never
written. -/
def execAddIVx (x : RegIdx) (s : State) : Result :=
  if indexSum s x > 0xFFFF then raise .memoryOutOfBounds (.addIVx x) (indexSum s x) s
  else .next (s.setI (BitVec.ofNat 16 (indexSum s x))).fallThrough

/-- `LD F,Vx` (R192). -/
def execLdFVx (x : RegIdx) (s : State) : Result := .next (s.setI (glyphAddr (s.reg x))).fallThrough

/-- Bytes stored at I, all or nothing, by the instruction `i` (spec/20_memory.md R65). -/
def storeAtI (i : Instr) (bytes : List Byte) (s : State) : Result :=
  match writeBytes s.mem (baseAddr s) bytes with
  | .error a => raise .memoryOutOfBounds i a s
  | .ok m => .next (s.setMem m).fallThrough

/-- `LD B,Vx` (R193): hundreds, tens, ones at I, I + 1, I + 2. -/
def execLdBVx (x : RegIdx) (s : State) : Result := storeAtI (.ldBVx x) (bcdDigits (s.reg x)) s

/-- `LD [I],Vx` (R194): V[0] to V[x] at I upwards. -/
def execLdMemIVx (x : RegIdx) (s : State) : Result := storeAtI (.ldMemIVx x) (regRange s x) s

/-- `LD Vx,[I]` (R195): V[0] to V[x] from I upwards. -/
def execLdVxMemI (x : RegIdx) (s : State) : Result :=
  match readBytes s.mem (baseAddr s) (x.val + 1) with
  | .error a => raise .memoryOutOfBounds (.ldVxMemI x) a s
  | .ok bytes => .next (loadRegs 0 bytes s).fallThrough

end Sys2Proof.Machine
end

