-- ==== Sys2Proof/Machine/KeypadTimers.lean ====
section
/-!
DEFINITION. The meanings of the keypad skips and of delay-timer access (spec/45_keypad_timers.md).
-/

namespace Sys2Proof.Machine

open Sys2Proof

/-- `SKP Vx` (R230): KeyIndexOutOfRange when V[x] is above 15. -/
def execSkpVx (x : RegIdx) (s : State) : Result :=
  match keyState s (s.reg x) with
  | none => raise .keyIndexOutOfRange (.skpVx x) 0 s
  | some pressed => .next (s.skipIf pressed)

/-- `SKNP Vx` (R231): as `SKP` with the condition inverted. -/
def execSknpVx (x : RegIdx) (s : State) : Result :=
  match keyState s (s.reg x) with
  | none => raise .keyIndexOutOfRange (.sknpVx x) 0 s
  | some pressed => .next (s.skipIf (!pressed))

/-- `LD Vx,DT` (R232): DT before this step's tick. -/
def execLdVxDt (x : RegIdx) (s : State) : Result := .next (s.setReg x s.dt).fallThrough

/-- `LD DT,Vx` (R233). -/
def execLdDtVx (x : RegIdx) (s : State) : Result := .next (s.setDt (s.reg x)).fallThrough

end Sys2Proof.Machine
end

