-- ==== Sys2Proof/Machine/LoadAlu.lean ====
section
/-!
DEFINITION. The meanings of the register loads, arithmetic, logic, shifts and random
(spec/42_load_alu_random.md). None can fault.
-/

namespace Sys2Proof.Machine

open Sys2Proof

/-- `LD Vx,kk` (R160). -/
def execLdVxKk (x : RegIdx) (kk : Byte) (s : State) : Result :=
  .next (s.setReg x kk).fallThrough

/-- `ADD Vx,kk` (R161): wraps mod 256, no flag. -/
def execAddVxKk (x : RegIdx) (kk : Byte) (s : State) : Result :=
  .next (s.setReg x (s.reg x + kk)).fallThrough

/-- `LD Vx,Vy` (R162). -/
def execLdVxVy (x y : RegIdx) (s : State) : Result :=
  .next (s.setReg x (s.reg y)).fallThrough

/-- `OR Vx,Vy` (R163): VF is not written as a flag. -/
def execOrVxVy (x y : RegIdx) (s : State) : Result :=
  .next (s.setReg x (s.reg x ||| s.reg y)).fallThrough

/-- `AND Vx,Vy` (R164): VF is not written as a flag. -/
def execAndVxVy (x y : RegIdx) (s : State) : Result :=
  .next (s.setReg x (s.reg x &&& s.reg y)).fallThrough

/-- `XOR Vx,Vy` (R165): VF is not written as a flag. -/
def execXorVxVy (x y : RegIdx) (s : State) : Result :=
  .next (s.setReg x (s.reg x ^^^ s.reg y)).fallThrough

/-- `ADD Vx,Vy` (R166): sum mod 256, then carry out to VF. -/
def execAddVxVy (x y : RegIdx) (s : State) : Result :=
  .next (s.setRegFlag x (s.reg x + s.reg y) (carryFlag (s.reg x) (s.reg y))).fallThrough

/-- `SHR` for a value of SHIFT_SOURCE (R167). -/
def shiftRight (src : Config.ShiftSource) (x y : RegIdx) (s : State) : State :=
  (s.setRegFlag x (shiftOperand src x y s >>> 1) (lsbFlag (shiftOperand src x y s))).fallThrough

/-- `SHL` for a value of SHIFT_SOURCE (R168). -/
def shiftLeft (src : Config.ShiftSource) (x y : RegIdx) (s : State) : State :=
  (s.setRegFlag x (shiftOperand src x y s <<< 1) (msbFlag (shiftOperand src x y s))).fallThrough

/-- `SHR Vx,Vy` (R167). -/
def execShrVxVy (x y : RegIdx) (s : State) : Result := .next (shiftRight Config.shiftSource x y s)

/-- `SHL Vx,Vy` (R168). -/
def execShlVxVy (x y : RegIdx) (s : State) : Result := .next (shiftLeft Config.shiftSource x y s)

/-- `RND Vx,kk` (R169): one byte of the random source, masked; the source advances even for kk = 0. -/
def execRndVxKk (x : RegIdx) (kk : Byte) (s : State) : Result :=
  .next ((s.setRng (nextByte s.rng).2).setReg x ((nextByte s.rng).1 &&& kk)).fallThrough

end Sys2Proof.Machine
end

