-- ==== Sys2Proof/Machine/Step.lean ====
section
/-!
DEFINITION. One step: fetch, decode, execute, tick in RUN; nothing in HALT (spec/40_step_cycle.md R121,
R127). The keypad input is the port `keys` of the state, the beep output its port `beep`.
-/

namespace Sys2Proof.Machine

open Sys2Proof

/-- A step in RUN (R121), by fault priority fetch, decode, execute (spec/60_exceptions.md R259). -/
def runStep (s : State) : Result :=
  match fetch s with
  | .error a => .next (fetchFault a s)
  | .ok w =>
    match decode w with
    | .error _ => .next (decodeFault w s)
    | .ok i => finishStep Config.tickMode (exec i s)

/-- `step` (R121, R127). -/
def step (s : State) : Host.Outcome State Fault Refusal :=
  match s.mode with
  | .halt => .next (haltedStep s)
  | .run => runStep s

/-- The state with the opcode-table word `w` stored where its next step fetches, so that this step runs
it (notes/assumptions/13.md). -/
def State.withFetchWord (s : State) (nbits w : Nat) : State := placeWord s (tableWord nbits w)

end Sys2Proof.Machine
end

