-- ==== Sys2Proof/Machine/HostEvents.lean ====
section
/-!
DEFINITION. The host's transactions (spec/10_state.md R36): reset, load, step with a keypad input, and
the tick event of TICK_MODE = DECOUPLED. Each is one atomic event between steps.
-/

namespace Sys2Proof.Machine

open Sys2Proof

/-- What the host asks of the core (R36). -/
inductive HostEvent where
  | reset
  | load (bytes : List Byte)
  | step (keys : Word)
  | tick
  deriving DecidableEq, Repr

/-- The answer of `load`: ProgramTooLarge is an answer to the host, not a fault of the core
(spec/20_memory.md R73, spec/60_exceptions.md R256). -/
inductive LoadAnswer where
  | accepted
  | programTooLarge
  deriving DecidableEq, Repr

/-- `load(bytes)` (spec/20_memory.md R73): in either mode (R74), a program of at most 3584 bytes is
copied to 0x200 and nothing else changes; a longer one changes nothing. -/
def loadProgram (bytes : List Byte) (s : State) : LoadAnswer × State :=
  if bytes.length > Config.progMax then (.programTooLarge, s)
  else (.accepted, s.setMem (putBytes s.mem Config.progBase bytes))

/-- The `tick` event (spec/60_exceptions.md R266): with DECOUPLED, Tick in RUN and nothing in HALT;
with COUPLED there is no such event, and the model lets it change nothing
(notes/assumptions/9.md). -/
def tickEvent (m : Config.TickMode) (s : State) : State :=
  match m, s.mode with
  | .decoupled, .run => tick s
  | .decoupled, .halt => s
  | .coupled, _ => s

/-- One host transaction: `step(keys)` is `step` with the keypad input set. DESIGN CHOICE
(notes/assumptions/19.md): reset sets the two ports as well. -/
def hostEvent (e : HostEvent) (s : State) : Result :=
  match e with
  | .reset => .next State.reset
  | .load bytes => .next (loadProgram bytes s).2
  | .step keys => step (s.setKeys keys)
  | .tick => .next (tickEvent Config.tickMode s)

/-- A sequence of host transactions (R36, spec/70_reset_and_hazards.md R301, R302): the keypad input
may differ at every step. -/
def hostRun : List HostEvent → State → Result
  | [], s => .next s
  | e :: rest, s =>
    match hostEvent e s with
    | .next s' => hostRun rest s'
    | .fault f => .fault f
    | .refused r => .refused r

/-- The outputs the host may read between steps (R35): the 2048 cells, the beep bit, the mode and the
four fault registers. -/
structure Outputs where
  cells : List Bool
  beep : Bool
  mode : Mode
  fcause : BitVec 3
  fopcode : Word
  fpc : Word
  faddr : BitVec 17
  deriving DecidableEq, Repr

/-- The read of the outputs; it is no event and changes nothing (R36). -/
def outputs (s : State) : Outputs where
  cells := (List.range Config.fbCells).map s.fb.cell
  beep := s.beep
  mode := s.mode
  fcause := s.fcause
  fopcode := s.fopcode
  fpc := s.fpc
  faddr := s.faddr

end Sys2Proof.Machine
end

