-- ==== Sys2Proof/Safety.lean ====
section
/-!
DEFINITION. What counts as a safe run, in the terms claims use: the invariant of the machine, a run
without fault, and the model's notion of a finished program.
-/

namespace Sys2Proof.Machine

open Sys2Proof

/-- In RUN no fault is recorded (spec/10_state.md R33). -/
abbrev State.runClear (s : State) : Prop :=
  s.mode = .run → s.fcause = 0 ∧ s.fopcode = 0 ∧ s.fpc = 0 ∧ s.faddr = 0

/-- In HALT a cause 1 to 5 is recorded, FPC is PC, and FADDR is an address above 4095 for
MemoryOutOfBounds and 0 for every other cause (spec/10_state.md R33, spec/60_exceptions.md R257). -/
abbrev State.haltRecorded (s : State) : Prop :=
  s.mode = .halt → (1 ≤ s.fcause.toNat ∧ s.fcause.toNat ≤ 5) ∧ s.fpc = s.pc ∧
    (s.fcause = 2 → 4096 ≤ s.faddr.toNat) ∧ (s.fcause ≠ 2 → s.faddr = 0)

/-- PC is at most 0x1002 (spec/10_state.md R23). -/
abbrev State.pcBounded (s : State) : Prop := s.pc.toNat ≤ 0x1002

/-- Every call-stack slot holds an address a CALL was fetched from, at most 0xFFE, or 0
(spec/41_control_flow.md R142). -/
abbrev State.stackBounded (s : State) : Prop := ∀ k : Fin 16, s.stack[k.val].toNat ≤ 0xFFE

/-- The invariant of the machine: every host event keeps it, and reset has it. -/
abbrev State.inv (s : State) : Prop :=
  s.mem.wf ∧ s.runClear ∧ s.haltRecorded ∧ s.pcBounded ∧ s.stackBounded

/-- No fault is recorded: the premise of every claim of successful completion
(spec/70_reset_and_hazards.md R312). -/
abbrev State.ok (s : State) : Prop := s.fcause = 0

/-- Finished (spec/70_reset_and_hazards.md R312, D27): mode = RUN and the word at PC is a jump to PC.
The definition is the model's: the source has none (notes/assumptions/17.md). -/
def State.finished (s : State) : Bool :=
  match s.mode, fetch s with
  | .run, .ok w =>
    match decode w with
    | .ok (.jpAddr a) => a.toNat == s.pc.toNat
    | _ => false
  | _, _ => false

end Sys2Proof.Machine
end

