-- ==== Sys2Proof/Certificates/Slice0/Obligations.lean ====
section
/-!
DEFINITION. The statements for the provers. Each docstring says which rule of spec/ it formalises. The
first part names the parts of the state and the shapes the statements share.
-/

namespace Sys2Proof.Claims

open Sys2Proof Sys2Proof.Machine

/-! ## The parts of the state, and what leaves them alone -/

/-- The parts of the state of spec/10_state.md R37, and the two ports. -/
inductive Part where
  | regs | index | pc | callStack | memory | frame | delay | sound | random | control | ports
  deriving DecidableEq, Repr

/-- A part of `t` is what it is in `s`: register by register, byte by byte, cell by cell. -/
def Part.same : Part → State → State → Prop
  | .regs, s, t => ∀ r, t.reg r = s.reg r
  | .index, s, t => t.iReg = s.iReg
  | .pc, s, t => t.pc = s.pc
  | .callStack, s, t => t.sp = s.sp ∧ t.stack = s.stack
  | .memory, s, t => ∀ a, t.mem.byteAt a = s.mem.byteAt a
  | .frame, s, t => ∀ c < 2048, t.fb.cell c = s.fb.cell c
  | .delay, s, t => t.dt = s.dt
  | .sound, s, t => t.st = s.st
  | .random, s, t => t.rng = s.rng
  | .control, s, t =>
    t.mode = s.mode ∧ t.fcause = s.fcause ∧ t.fopcode = s.fopcode ∧ t.fpc = s.fpc ∧ t.faddr = s.faddr
  | .ports, s, t => t.keys = s.keys ∧ t.beep = s.beep

/-- Every part outside `changed` is unchanged. -/
def Kept (changed : List Part) (s t : State) : Prop := ∀ p, p ∉ changed → p.same s t

/-- Every register outside `d` is unchanged. -/
def RegsKept (d : RegIdx → Prop) (s t : State) : Prop := ∀ r, ¬ d r → t.reg r = s.reg r

/-- Every byte of memory outside the `count` bytes at `base` is unchanged. -/
def BytesKept (base count : Nat) (s t : State) : Prop :=
  ∀ a, a < base ∨ base + count ≤ a → t.mem.byteAt a = s.mem.byteAt a

/-- Call-stack slot `k`. -/
def slot (s : State) (k : Nat) : Word := s.stack.toList.getD k 0

/-! ## Shapes of statements -/

/-- The instruction `i` is exactly the word `w`. -/
def Encodes (i : Instr) (w : Nat) : Prop :=
  encode i = BitVec.ofNat 16 w ∧ decode (BitVec.ofNat 16 w) = .ok i

/-- Executing `i` in `s` answers a next state, of which `P` holds. -/
def Completes (i : Instr) (s : State) (P : State → Prop) : Prop :=
  ∃ t, exec i s = .next t ∧ P t

/-- `t` is `s` after the fault entry of spec/60_exceptions.md R257: the cause code, the opcode, PC and
the address are recorded, the mode is HALT, the beep output is false, and nothing else changes. -/
def FaultEntry (code : Nat) (opcode : Word) (addr : Nat) (s t : State) : Prop :=
  t.fcause.toNat = code ∧ t.fopcode = opcode ∧ t.fpc = s.pc ∧ t.faddr.toNat = addr ∧
    t.mode = .halt ∧ t.beep = false ∧ t.keys = s.keys ∧ Kept [.control, .ports] s t

/-- Executing `i` in `s` takes the fault with this code and address. -/
def Faults (i : Instr) (s : State) (code addr : Nat) : Prop :=
  Completes i s (FaultEntry code (encode i) addr s)

/-- PC is advanced by `k`: the sum is not reduced (spec/40_step_cycle.md R124). Of a sum above 0xFFFF,
which no step can form, this says nothing (notes/assumptions/10.md). -/
def Advances (k : Nat) (s t : State) : Prop :=
  s.pc.toNat + k ≤ 0xFFFF → t.pc.toNat = s.pc.toNat + k

/-- A skip: PC advances by 4 when taken and by 2 otherwise, and nothing else changes. -/
def Skips (i : Instr) (s : State) (taken : Prop) : Prop :=
  Completes i s fun t =>
    (taken → Advances 4 s t) ∧ (¬ taken → Advances 2 s t) ∧ Kept [.pc] s t

/-- V[x] receives `b`, PC advances by 2, and nothing else changes. -/
def Loads (i : Instr) (s : State) (x : RegIdx) (b : Byte) : Prop :=
  Completes i s fun t =>
    t.reg x = b ∧ Advances 2 s t ∧ RegsKept (· = x) s t ∧ Kept [.regs, .pc] s t

/-- V[x] receives the number `b` and then VF the flag `f`, so that VF ends as the flag; PC advances by
2, and nothing else changes. -/
def LoadsWithFlag (i : Instr) (s : State) (x : RegIdx) (b : Nat) (f : Bool) : Prop :=
  Completes i s fun t =>
    (x ≠ vf → (t.reg x).toNat = b) ∧ t.reg vf = (if f then 1 else 0) ∧ Advances 2 s t ∧
      RegsKept (fun r => r = x ∨ r = vf) s t ∧ Kept [.regs, .pc] s t

/-- I receives `a`, PC advances by 2, and nothing else changes. -/
def LoadsIndex (i : Instr) (s : State) (a : Nat) : Prop :=
  Completes i s fun t => t.iReg.toNat = a ∧ Advances 2 s t ∧ Kept [.index, .pc] s t

/-- The sprite bit that maps to cell `c` in a `DRW` of `n` rows from address `base` at (x0, y0): row i,
bit k (most significant first) belongs to the cell ((x0 + k) mod 64, (y0 + i) mod 32). -/
def spriteBit (m : Memory) (base x0 y0 n c : Nat) : Bool :=
  (List.range n).any fun i => (List.range 8).any fun k =>
    (m.byteAt (base + i)).getLsbD (7 - k) && decide ((y0 + i) % 32 * 64 + (x0 + k) % 64 = c)

/-- The word at PC: the byte at PC is the high byte. -/
def wordAt (s : State) : Word :=
  BitVec.ofNat 16 ((s.mem.byteAt s.pc.toNat).toNat * 256 + (s.mem.byteAt (s.pc.toNat + 1)).toNat)

/-- Both timers counted down by one, never below zero, and the beep when ST was 1. -/
def Ticked (s t : State) : Prop :=
  t.dt.toNat = s.dt.toNat - 1 ∧ t.st.toNat = s.st.toNat - 1 ∧ (t.beep = true ↔ s.st.toNat = 1) ∧
    t.keys = s.keys ∧ Kept [.delay, .sound, .ports] s t

/-- What a step makes of the state its instruction leaves: a raised fault stays as it is, anything else
is ticked. -/
def StepEnds (t : State) (r : Result) : Prop :=
  (t.mode = .halt → r = .next t) ∧ (t.mode = .run → ∃ u, r = .next u ∧ Ticked t u)

/-- The parts an instruction that does not fault may write (spec/10_state.md R39, the columns with w);
every instruction writes PC. -/
def writes : Instr → List Part
  | .cls => [.pc, .frame]
  | .ret => [.pc, .callStack]
  | .jpAddr _ => [.pc]
  | .callAddr _ => [.pc, .callStack]
  | .seVxKk _ _ => [.pc]
  | .sneVxKk _ _ => [.pc]
  | .seVxVy _ _ => [.pc]
  | .ldVxKk _ _ => [.pc, .regs]
  | .addVxKk _ _ => [.pc, .regs]
  | .ldVxVy _ _ => [.pc, .regs]
  | .orVxVy _ _ => [.pc, .regs]
  | .andVxVy _ _ => [.pc, .regs]
  | .xorVxVy _ _ => [.pc, .regs]
  | .addVxVy _ _ => [.pc, .regs]
  | .shrVxVy _ _ => [.pc, .regs]
  | .shlVxVy _ _ => [.pc, .regs]
  | .sneVxVy _ _ => [.pc]
  | .ldIAddr _ => [.pc, .index]
  | .rndVxKk _ _ => [.pc, .regs, .random]
  | .drwVxVyN _ _ _ => [.pc, .regs, .frame]
  | .skpVx _ => [.pc]
  | .sknpVx _ => [.pc]
  | .ldVxDt _ => [.pc, .regs]
  | .ldDtVx _ => [.pc, .delay]
  | .addIVx _ => [.pc, .index]
  | .ldFVx _ => [.pc, .index]
  | .ldBVx _ => [.pc, .memory]
  | .ldMemIVx _ => [.pc, .memory]
  | .ldVxMemI _ => [.pc, .regs]

/-- The registers an instruction may write (spec/10_state.md R39, the columns V and "VF as flag"). -/
def destination : Instr → RegIdx → Prop
  | .ldVxKk x _, r => r = x
  | .addVxKk x _, r => r = x
  | .ldVxVy x _, r => r = x
  | .orVxVy x _, r => r = x
  | .andVxVy x _, r => r = x
  | .xorVxVy x _, r => r = x
  | .addVxVy x _, r => r = x ∨ r = vf
  | .shrVxVy x _, r => r = x ∨ r = vf
  | .shlVxVy x _, r => r = x ∨ r = vf
  | .rndVxKk x _, r => r = x
  | .drwVxVyN _ _ _, r => r = vf
  | .ldVxDt x, r => r = x
  | .ldVxMemI x, r => r ≤ x
  | _, _ => False

/-- How many bytes an instruction stores, upwards from I (spec/10_state.md R39, the w entries of the
column mem: I..I+2 for Fx33 and I..I+x for Fx55). -/
def storedBytes : Instr → Nat
  | .ldBVx _ => 3
  | .ldMemIVx x => x.val + 1
  | _ => 0

/-- The instructions that can fault in their execute phase, each with its one cause code
(spec/60_exceptions.md R250). -/
def executeFault : Instr → Option Nat
  | .callAddr _ => some 3
  | .ret => some 4
  | .drwVxVyN _ _ _ => some 2
  | .ldBVx _ => some 2
  | .ldMemIVx _ => some 2
  | .ldVxMemI _ => some 2
  | .addIVx _ => some 2
  | .skpVx _ => some 5
  | .sknpVx _ => some 5
  | _ => none

end Sys2Proof.Claims

open Sys2Proof Sys2Proof.Machine Sys2Proof.Claims

/-! ## Reset, load and the host -/

/-- R38: what reset leaves. The clause R38 gives for rng (RNG_SEED) is left out: the model's reset value
of that field is its own (notes/assumptions/4.md). The font bytes are Config.font. -/
def Obligations.ResetLeavesTheStatedValues : Prop :=
  ∀ s : State, ∃ t, hostEvent .reset s = .next t ∧ (∀ r, t.reg r = 0) ∧ t.iReg = 0 ∧
    t.pc = 0x200 ∧ t.sp = 0 ∧ (∀ k < 16, slot t k = 0) ∧
    (∀ a < 80, t.mem.byteAt a = Config.font.getD a 0) ∧
    (∀ a, 80 ≤ a → a < 4096 → t.mem.byteAt a = 0) ∧ (∀ c < 2048, t.fb.cell c = false) ∧
    t.dt = 0 ∧ t.st = 0 ∧ t.mode = .run ∧ t.fcause = 0 ∧ t.fopcode = 0 ∧ t.fpc = 0 ∧ t.faddr = 0

/-- The invariant holds at reset. -/
def Obligations.ResetHasTheInvariant : Prop := State.reset.inv

/-- Every step keeps the invariant: memory stays in canonical form, RUN has no fault recorded, HALT has
cause, PC and address recorded as R33 and R257 say, PC stays at most 0x1002 (R23), and every call-stack
slot at most 0xFFE (R142). -/
def Obligations.StepKeepsTheInvariant : Prop :=
  ∀ s t : State, s.inv → step s = .next t → t.inv

/-- Every sequence of host transactions keeps the invariant, with any keypad input at every step. -/
def Obligations.HostRunKeepsTheInvariant : Prop :=
  ∀ (es : List HostEvent) (s t : State), s.inv → hostRun es s = .next t → t.inv

/-- R126, R128: a step is a total function, so every step request completes, and so does every sequence
of host transactions: nothing faults out of the machine or is refused. -/
def Obligations.EveryRequestCompletes : Prop :=
  (∀ s : State, ∃ t, step s = .next t) ∧
    ∀ (es : List HostEvent) (s : State), ∃ t, hostRun es s = .next t

/-- R73: a program longer than 3584 bytes is refused and changes nothing; any other is copied verbatim
to 0x200, in either mode, and no other byte and no other state changes. -/
def Obligations.LoadCopiesOrRefuses : Prop :=
  ∀ (bytes : List Byte) (s : State),
    (3584 < bytes.length → loadProgram bytes s = (.programTooLarge, s) ∧
      hostEvent (.load bytes) s = .next s) ∧
    (bytes.length ≤ 3584 → ∃ t, loadProgram bytes s = (.accepted, t) ∧
      hostEvent (.load bytes) s = .next t ∧
      (s.mem.wf → ∀ k < bytes.length, t.mem.byteAt (0x200 + k) = bytes.getD k 0) ∧
      BytesKept 0x200 bytes.length s t ∧ Kept [.memory] s t)

/-- R120: the control states. Reset leads to RUN from either state; a step in RUN stays in RUN unless it
takes a fault; no other transaction leads from RUN to HALT; and none but reset leaves HALT or changes
what was recorded there, or, but for a load, anything else. -/
def Obligations.OnlyResetLeavesHalt : Prop :=
  ∀ (e : HostEvent) (s t : State), hostEvent e s = .next t →
    (e = .reset → t.mode = .run) ∧
    (∀ keys, e = .step keys → s.mode = .run → t.mode = .run ∨
      ∃ code opcode addr, 1 ≤ code ∧ code ≤ 5 ∧ FaultEntry code opcode addr (s.setKeys keys) t) ∧
    (s.mode = .run → t.mode = .halt → ∃ keys, e = .step keys) ∧
    (s.mode = .halt → e ≠ .reset →
      Part.control.same s t ∧ ((∀ bytes, e ≠ .load bytes) → Kept [.ports] s t))

/-- R263: Tick. -/
def Obligations.TickCountsBothTimersDown : Prop := ∀ s : State, Ticked s (tick s)

/-- R263, the timers' monotonicity: k ticks take DT down by k and no further than 0. -/
def Obligations.RepeatedTicksReachZeroAndStay : Prop :=
  ∀ (k : Nat) (s : State), (tick^[k] s).dt.toNat = s.dt.toNat - k ∧
    (tick^[k] s).st.toNat = s.st.toNat - k

/-- R266: with TICK_MODE = DECOUPLED a step does not tick and its beep output is false, and the host's
tick event ticks in RUN and does nothing in HALT. -/
def Obligations.DecoupledTicksAreTheHostsOwn : Prop :=
  ∀ s : State,
    (s.mode = .run → (afterExecute .decoupled s).beep = false ∧
      (afterExecute .decoupled s).keys = s.keys ∧ Kept [.ports] s (afterExecute .decoupled s) ∧
      Ticked s (tickEvent .decoupled s)) ∧
    (s.mode = .halt → afterExecute .decoupled s = s ∧ tickEvent .decoupled s = s)

/-! ## The step -/

/-- R121, R125: in RUN, when the two bytes at PC are the word of an instruction, a step is its execute
phase, which answers a next state, followed by one Tick unless it raised a fault. -/
def Obligations.StepRunsTheDecodedInstruction : Prop :=
  ∀ (s : State) (i : Instr), s.mode = .run → s.pc.toNat < 4095 → decode (wordAt s) = .ok i →
    Completes i s fun t => StepEnds t (step s)

/-- R122: the opcode is `mem[pc] * 256 + mem[pc + 1]`, at any parity of pc; a fetch that does not lie in
memory faults, with the address PC, or 4096 when only the second byte is out of range, and with
opcode 0. -/
def Obligations.FetchReadsTheWordAtPcOrFaults : Prop :=
  ∀ s : State,
    (s.pc.toNat < 4095 → fetch s = .ok (wordAt s)) ∧
    (s.mode = .run → 4095 < s.pc.toNat →
      ∃ t, step s = .next t ∧ FaultEntry 2 0 s.pc.toNat s t) ∧
    (s.mode = .run → s.pc.toNat = 4095 → ∃ t, step s = .next t ∧ FaultEntry 2 0 4096 s t)

/-- R251: a fetched word that is no instruction raises DecodeFailure, which records the word and its
address and changes nothing else. -/
def Obligations.IllegalWordFaultsAtItsFetch : Prop :=
  ∀ s : State, s.mode = .run → s.pc.toNat < 4095 → (∀ i, decode (wordAt s) ≠ .ok i) →
    ∃ t, step s = .next t ∧ FaultEntry 1 (wordAt s) 0 s t

/-- R127: a step request in HALT changes no state, does not tick, and returns beep false. -/
def Obligations.StepInHaltChangesNothing : Prop :=
  ∀ s : State, s.mode = .halt →
    ∃ t, step s = .next t ∧ t.beep = false ∧ t.keys = s.keys ∧ Kept [.ports] s t

/-- The model's interface, over R64 and R121: a word placed by withFetchWord is what the next step
runs (notes/assumptions/13.md). -/
def Obligations.PlacedWordIsTheNextToRun : Prop :=
  ∀ (s : State) (i : Instr), s.mem.wf →
    Completes i (s.withFetchWord 16 (encode i).toNat) fun t =>
      StepEnds t (step (s.withFetchWord 16 (encode i).toNat))

/-- R124: PC after an instruction is pc + 2, pc + 4, the target of a jump or call, or the popped value
plus 2, none of them reduced, and at most 0x1002 (R23); after a fault it is unchanged. The premises are
what a step gives: the instruction was fetched, and the call-stack bound of the invariant. -/
def Obligations.ProgramCounterNeverWraps : Prop :=
  ∀ (i : Instr) (s t : State), s.pc.toNat < 4095 → s.stackBounded → exec i s = .next t →
    t.pc.toNat ≤ 0x1002 ∧
    ((t.mode = .halt ∧ t.pc = s.pc) ∨ t.pc.toNat = s.pc.toNat + 2 ∨ t.pc.toNat = s.pc.toNat + 4 ∨
      (∃ a : Addr12, (i = .jpAddr a ∨ i = .callAddr a) ∧ t.pc.toNat = a.toNat) ∨
      (i = .ret ∧ t.pc.toNat = (slot s (s.sp.val - 1)).toNat + 2))

/-- R312: a finished program stays finished: a step leaves everything but the timers and the ports
unchanged. "Finished" is the model's definition (D27, notes/assumptions/17.md). -/
def Obligations.FinishedProgramStaysFinished : Prop :=
  ∀ s : State, s.finished = true →
    ∃ t, step s = .next t ∧ t.finished = true ∧ t.dt.toNat = s.dt.toNat - 1 ∧
      Kept [.delay, .sound, .ports] s t

/-! ## Encoding -/

/-- R94, R98: for every instruction and all its operands, the word it encodes to decodes to it. -/
def Obligations.DecodeOfEncodeIsTheInstruction : Prop := ∀ i : Instr, decode (encode i) = .ok i

/-- R98: a word that decodes to an instruction is the one word of that instruction: no bit of a legal
word is dropped. -/
def Obligations.EachLegalWordIsItsInstructionsOwn : Prop :=
  ∀ (w : Word) (i : Instr), decode w = .ok i → encode i = w

/-- R94, R95: a word decodes to an instruction exactly when a row of the opcode map matches it, and then
that instruction's own row does. -/
def Obligations.DecoderAgreesWithTheOpcodeMap : Prop :=
  (∀ (w : Word) (i : Instr), decode w = .ok i → i.row.accepts w = true ∧ i.row ∈ opcodeTable) ∧
    ∀ w : Word, (∃ r ∈ opcodeTable, r.accepts w = true) → ∃ i, decode w = .ok i

/-- R94: the patterns of the opcode map are disjoint. -/
def Obligations.OpcodePatternsAreDisjoint : Prop :=
  opcodeTable.length = 29 ∧
    opcodeTable.Pairwise fun r q => ∀ w : Word, ¬ (r.accepts w = true ∧ q.accepts w = true)

/-- R97: which words are illegal, group by group. -/
def Obligations.IllegalWordsByGroup : Prop :=
  ∀ w : Word, ∃ op x y n : Nat, op < 16 ∧ x < 16 ∧ y < 16 ∧ n < 16 ∧
    w.toNat = op * 4096 + x * 256 + y * 16 + n ∧
    ((∃ e, decode w = .error e) ↔
      (op = 0 ∧ ¬ (x = 0 ∧ y = 0xE ∧ n = 0) ∧ ¬ (x = 0 ∧ y = 0xE ∧ n = 0xE)) ∨
      (op = 5 ∧ n ≠ 0) ∨
      (op = 8 ∧ (n = 5 ∨ n = 7 ∨ (8 ≤ n ∧ n ≤ 0xD) ∨ n = 0xF)) ∨
      (op = 9 ∧ n ≠ 0) ∨
      op = 0xB ∨
      (op = 0xE ∧ y * 16 + n ≠ 0x9E ∧ y * 16 + n ≠ 0xA1) ∨
      (op = 0xF ∧ y * 16 + n ∉ [0x07, 0x15, 0x1E, 0x29, 0x33, 0x55, 0x65]))

/-- R94: exactly 39314 of the 65536 words decode to an instruction. -/
def Obligations.LegalWordCount : Prop :=
  ((List.range 65536).filter fun w => (decode (BitVec.ofNat 16 w)).isOk).length = 39314

/-- Words written out from the encodings of R95, one for every format and for the op-8 nibbles. -/
def Obligations.WordsOfEveryFormatDecode : Prop :=
  decode 0x00E0 = .ok .cls ∧ decode 0x1ABC = .ok (.jpAddr 0xABC) ∧
    decode 0x3A7F = .ok (.seVxKk 0xA 0x7F) ∧ decode 0x8AB6 = .ok (.shrVxVy 0xA 0xB) ∧
    decode 0x8ABE = .ok (.shlVxVy 0xA 0xB) ∧ decode 0xD125 = .ok (.drwVxVyN 1 2 5) ∧
    decode 0xE2A1 = .ok (.sknpVx 2) ∧ decode 0xF165 = .ok (.ldVxMemI 1) ∧
    decodeBytes [0x12, 0x34, 0x56] = .ok (.jpAddr 0x234, [0x56])

/-- R99: the assembler accepts exactly the well-formed lines. -/
def Obligations.AssemblerAcceptsExactlyWellFormedLines : Prop :=
  ∀ l : AsmLine, (assemble l).isSome = l.wf

/-! ## Control transfer -/

/-- R142. The sum is not reduced; of a slot above 0xFFFD, which no run forms, this says nothing
(notes/assumptions/10.md). -/
def Obligations.RetPopsTheCallAndAddsTwo : Prop :=
  Encodes .ret 0x00EE ∧ ∀ s : State,
    (s.sp.val = 0 → Faults .ret s 4 0) ∧
    (0 < s.sp.val → Completes .ret s fun t =>
      t.sp.val = s.sp.val - 1 ∧ t.stack = s.stack ∧
        ((slot s (s.sp.val - 1)).toNat + 2 ≤ 0xFFFF →
          t.pc.toNat = (slot s (s.sp.val - 1)).toNat + 2) ∧
        Kept [.pc, .callStack] s t)

/-- R143. -/
def Obligations.JpSetsTheProgramCounter : Prop :=
  ∀ (addr : Addr12) (s : State), Encodes (.jpAddr addr) (0x1000 + addr.toNat) ∧
    Completes (.jpAddr addr) s fun t => t.pc.toNat = addr.toNat ∧ Kept [.pc] s t

/-- R144. -/
def Obligations.CallPushesItsOwnAddress : Prop :=
  ∀ (addr : Addr12) (s : State), Encodes (.callAddr addr) (0x2000 + addr.toNat) ∧
    (s.sp.val = 16 → Faults (.callAddr addr) s 3 0) ∧
    (s.sp.val < 16 → Completes (.callAddr addr) s fun t =>
      slot t s.sp.val = s.pc ∧ (∀ k, k ≠ s.sp.val → slot t k = slot s k) ∧
        t.sp.val = s.sp.val + 1 ∧ t.pc.toNat = addr.toNat ∧ Kept [.pc, .callStack] s t)

/-- R141, R142, R144: a CALL followed by a RET comes back to the instruction after the CALL, with the
depth it had. -/
def Obligations.ReturnUndoesCall : Prop :=
  ∀ (addr : Addr12) (s : State), s.sp.val < 16 →
    Completes (.callAddr addr) s fun t => ∀ t' : State, t'.sp = t.sp → t'.stack = t.stack →
      Completes .ret t' fun u => Advances 2 s u ∧ u.sp = s.sp

/-- R145 to R148. -/
def Obligations.RegisterSkipsCompareAndSkip : Prop :=
  ∀ (x y : RegIdx) (kk : Byte) (s : State),
    (Encodes (.seVxKk x kk) (0x3000 + x.val * 256 + kk.toNat) ∧
      Skips (.seVxKk x kk) s (s.reg x = kk)) ∧
    (Encodes (.sneVxKk x kk) (0x4000 + x.val * 256 + kk.toNat) ∧
      Skips (.sneVxKk x kk) s (s.reg x ≠ kk)) ∧
    (Encodes (.seVxVy x y) (0x5000 + x.val * 256 + y.val * 16) ∧
      Skips (.seVxVy x y) s (s.reg x = s.reg y)) ∧
    (Encodes (.sneVxVy x y) (0x9000 + x.val * 256 + y.val * 16) ∧
      Skips (.sneVxVy x y) s (s.reg x ≠ s.reg y))

/-! ## Loads, arithmetic, logic, random -/

/-- R160. -/
def Obligations.LdVxKkLoadsTheImmediate : Prop :=
  ∀ (x : RegIdx) (kk : Byte) (s : State),
    Encodes (.ldVxKk x kk) (0x6000 + x.val * 256 + kk.toNat) ∧ Loads (.ldVxKk x kk) s x kk

/-- R161. -/
def Obligations.AddVxKkWrapsWithoutAFlag : Prop :=
  ∀ (x : RegIdx) (kk : Byte) (s : State),
    Encodes (.addVxKk x kk) (0x7000 + x.val * 256 + kk.toNat) ∧
      Loads (.addVxKk x kk) s x (BitVec.ofNat 8 (((s.reg x).toNat + kk.toNat) % 256))

/-- R162 to R165: copy, or, and, exclusive or, bit by bit; VF is not written as a flag. -/
def Obligations.RegisterFormsCopyAndCombineBits : Prop :=
  ∀ (x y : RegIdx) (s : State),
    (Encodes (.ldVxVy x y) (0x8000 + x.val * 256 + y.val * 16) ∧
      Loads (.ldVxVy x y) s x (s.reg y)) ∧
    (Encodes (.orVxVy x y) (0x8001 + x.val * 256 + y.val * 16) ∧
      ∃ b, Loads (.orVxVy x y) s x b ∧
        ∀ k < 8, b.getLsbD k = ((s.reg x).getLsbD k || (s.reg y).getLsbD k)) ∧
    (Encodes (.andVxVy x y) (0x8002 + x.val * 256 + y.val * 16) ∧
      ∃ b, Loads (.andVxVy x y) s x b ∧
        ∀ k < 8, b.getLsbD k = ((s.reg x).getLsbD k && (s.reg y).getLsbD k)) ∧
    (Encodes (.xorVxVy x y) (0x8003 + x.val * 256 + y.val * 16) ∧
      ∃ b, Loads (.xorVxVy x y) s x b ∧
        ∀ k < 8, b.getLsbD k = ((s.reg x).getLsbD k ^^ (s.reg y).getLsbD k))

/-- R166. -/
def Obligations.AddVxVyReportsTheCarry : Prop :=
  ∀ (x y : RegIdx) (s : State),
    Encodes (.addVxVy x y) (0x8004 + x.val * 256 + y.val * 16) ∧
      LoadsWithFlag (.addVxVy x y) s x (((s.reg x).toNat + (s.reg y).toNat) % 256)
        (decide ((s.reg x).toNat + (s.reg y).toNat > 255))

/-- R167, R168: for the one value SHIFT_SOURCE has, which nothing fixes: if it is VX the source is V[x],
if it is VY it is V[y]. -/
def Obligations.ShiftsReportTheBitShiftedOut : Prop :=
  ∀ (x y : RegIdx) (s : State), ∃ a : Byte,
    (Config.shiftSource = .vx → a = s.reg x) ∧ (Config.shiftSource = .vy → a = s.reg y) ∧
    (Encodes (.shrVxVy x y) (0x8006 + x.val * 256 + y.val * 16) ∧
      LoadsWithFlag (.shrVxVy x y) s x (a.toNat / 2) (a.getLsbD 0)) ∧
    (Encodes (.shlVxVy x y) (0x800E + x.val * 256 + y.val * 16) ∧
      LoadsWithFlag (.shlVxVy x y) s x (a.toNat * 2 % 256) (a.getLsbD 7))

/-- R169: V[x] receives the byte NextByte returns masked by kk, and the source is left as that one call
leaves it; a fixed sequence gives its bytes in order (R171). -/
def Obligations.RndMasksOneRandomByte : Prop :=
  ∀ (x : RegIdx) (kk : Byte) (s : State),
    Encodes (.rndVxKk x kk) (0xC000 + x.val * 256 + kk.toNat) ∧
      Completes (.rndVxKk x kk) s fun t =>
        t.reg x = (nextByte s.rng).1 &&& kk ∧ t.rng = (nextByte s.rng).2 ∧ Advances 2 s t ∧
          RegsKept (· = x) s t ∧ Kept [.regs, .pc, .random] s t ∧
          ∀ b rest past, s.rng = .fixedSequence (b :: rest) past →
            t.reg x = b &&& kk ∧ t.rng = .fixedSequence rest past

/-! ## The address register and memory -/

/-- R190. -/
def Obligations.LdIAddrLoadsTheAddress : Prop :=
  ∀ (addr : Addr12) (s : State), Encodes (.ldIAddr addr) (0xA000 + addr.toNat) ∧
    LoadsIndex (.ldIAddr addr) s addr.toNat

/-- R191. -/
def Obligations.AddIVxAddsOrFaults : Prop :=
  ∀ (x : RegIdx) (s : State), Encodes (.addIVx x) (0xF01E + x.val * 256) ∧
    (s.iReg.toNat + (s.reg x).toNat ≤ 0xFFFF →
      LoadsIndex (.addIVx x) s (s.iReg.toNat + (s.reg x).toNat)) ∧
    (0xFFFF < s.iReg.toNat + (s.reg x).toNat →
      Faults (.addIVx x) s 2 (s.iReg.toNat + (s.reg x).toNat))

/-- R192. -/
def Obligations.LdFVxPointsAtTheGlyph : Prop :=
  ∀ (x : RegIdx) (s : State), Encodes (.ldFVx x) (0xF029 + x.val * 256) ∧
    LoadsIndex (.ldFVx x) s ((s.reg x).toNat * 5)

/-- R193. What was stored is read back from a memory in canonical form. -/
def Obligations.LdBVxStoresThreeDigits : Prop :=
  ∀ (x : RegIdx) (s : State), Encodes (.ldBVx x) (0xF033 + x.val * 256) ∧
    (4095 < s.iReg.toNat + 2 → Faults (.ldBVx x) s 2 (max s.iReg.toNat 4096)) ∧
    (s.iReg.toNat + 2 ≤ 4095 → Completes (.ldBVx x) s fun t =>
      (s.mem.wf → ∀ a, baseAddr s = a →
        (t.mem.byteAt a).toNat = (s.reg x).toNat / 100 ∧
        (t.mem.byteAt (a + 1)).toNat = (s.reg x).toNat / 10 % 10 ∧
        (t.mem.byteAt (a + 2)).toNat = (s.reg x).toNat % 10) ∧
      BytesKept (baseAddr s) 3 s t ∧ Advances 2 s t ∧ Kept [.memory, .pc] s t)

/-- R194. What was stored is read back from a memory in canonical form. -/
def Obligations.LdMemIVxStoresTheRegisters : Prop :=
  ∀ (x : RegIdx) (s : State), Encodes (.ldMemIVx x) (0xF055 + x.val * 256) ∧
    (4095 < s.iReg.toNat + x.val → Faults (.ldMemIVx x) s 2 (max s.iReg.toNat 4096)) ∧
    (s.iReg.toNat + x.val ≤ 4095 → Completes (.ldMemIVx x) s fun t =>
      (s.mem.wf → ∀ a, baseAddr s = a → ∀ r : RegIdx, r ≤ x → t.mem.byteAt (a + r.val) = s.reg r) ∧
      BytesKept (baseAddr s) (x.val + 1) s t ∧ Advances 2 s t ∧ Kept [.memory, .pc] s t)

/-- R195. -/
def Obligations.LdVxMemILoadsTheRegisters : Prop :=
  ∀ (x : RegIdx) (s : State), Encodes (.ldVxMemI x) (0xF065 + x.val * 256) ∧
    (4095 < s.iReg.toNat + x.val → Faults (.ldVxMemI x) s 2 (max s.iReg.toNat 4096)) ∧
    (s.iReg.toNat + x.val ≤ 4095 → Completes (.ldVxMemI x) s fun t =>
      (∀ r : RegIdx, r ≤ x → t.reg r = s.mem.byteAt (s.iReg.toNat + r.val)) ∧
      RegsKept (· ≤ x) s t ∧ Advances 2 s t ∧ Kept [.regs, .pc] s t)

/-- R62, R63: a one-byte read or write above 4095 fails with its address; below, a read answers the byte
and a write changes that byte and no other, keeping the canonical form. -/
def Obligations.OneByteAccessesAreCheckedAndLocal : Prop :=
  ∀ (m : Memory) (a : Nat) (v : Byte),
    (4095 < a → readBytes m a 1 = .error a ∧ writeBytes m a [v] = .error a) ∧
    (a ≤ 4095 → readBytes m a 1 = .ok [m.byteAt a] ∧ ∃ m', writeBytes m a [v] = .ok m' ∧
      (m.wf → m'.wf ∧ m'.byteAt a = v) ∧ ∀ b, b ≠ a → m'.byteAt b = m.byteAt b)

/-- R72: a store to code is seen by the next fetch: registers stored where the next instruction is
fetched are that instruction. -/
def Obligations.StoreToCodeIsFetchedNext : Prop :=
  ∀ (x : RegIdx) (s : State), s.mem.wf → 1 ≤ x.val → s.iReg.toNat + x.val ≤ 4095 →
    s.iReg.toNat = s.pc.toNat + 2 → Completes (.ldMemIVx x) s fun t =>
      fetch t = .ok (BitVec.ofNat 16 ((s.reg 0).toNat * 256 + (s.reg 1).toNat))

/-! ## Display -/

/-- R210. -/
def Obligations.ClsTurnsEveryCellOff : Prop :=
  Encodes .cls 0x00E0 ∧ ∀ s : State, Completes .cls s fun t =>
    (∀ c < 2048, t.fb.cell c = false) ∧ Advances 2 s t ∧ Kept [.frame, .pc] s t

/-- R211, with R212 (b): each cell is exclusive-ored with the sprite bit that maps to it, VF is 1 exactly
when a lit cell was toggled off and 0 otherwise, and a sprite that runs past 4095 faults before
anything changes. -/
def Obligations.DrwXorsTheSpriteAndReportsCollision : Prop :=
  ∀ (x y : RegIdx) (n : BitVec 4) (s : State),
    Encodes (.drwVxVyN x y n) (0xD000 + x.val * 256 + y.val * 16 + n.toNat) ∧
    (0 < n.toNat ∧ 4095 < s.iReg.toNat + n.toNat - 1 →
      Faults (.drwVxVyN x y n) s 2 (max s.iReg.toNat 4096)) ∧
    (n.toNat = 0 ∨ s.iReg.toNat + n.toNat - 1 ≤ 4095 → Completes (.drwVxVyN x y n) s fun t =>
      (∀ c < 2048, t.fb.cell c = (s.fb.cell c ^^
        spriteBit s.mem s.iReg.toNat (s.reg x).toNat (s.reg y).toNat n.toNat c)) ∧
      (t.reg vf = 1 ↔ ∃ c < 2048, s.fb.cell c = true ∧
        spriteBit s.mem s.iReg.toNat (s.reg x).toNat (s.reg y).toNat n.toNat c = true) ∧
      (t.reg vf = 0 ∨ t.reg vf = 1) ∧ Advances 2 s t ∧ RegsKept (· = vf) s t ∧
      Kept [.regs, .frame, .pc] s t)

/-- R212 (a): within one DRW, distinct (row, bit) pairs have distinct cells. -/
def Obligations.OneDrawTogglesACellAtMostOnce : Prop :=
  ∀ x0 y0 i k i' k' : Nat, i < 15 → i' < 15 → k < 8 → k' < 8 →
    cellIndex (x0 + k) (y0 + i) = cellIndex (x0 + k') (y0 + i') → i = i' ∧ k = k'

/-- R212 (c) and the source's collision law, with its premise: drawing the same sprite again at the same
coordinates, with no other framebuffer change between, restores the framebuffer, and the second draw
sets VF = 1 exactly when some set sprite bit maps to a cell that was off before the first; so on an
all-off framebuffer a sprite with a set bit gives VF = 0 and then VF = 1
(notes/assumptions/21.md). -/
def Obligations.DrawingTwiceRestoresTheFramebuffer : Prop :=
  ∀ (x y : RegIdx) (n : BitVec 4) (s : State),
    n.toNat = 0 ∨ s.iReg.toNat + n.toNat ≤ 4096 →
    Completes (.drwVxVyN x y n) s fun t => ∀ t' : State, Part.frame.same t t' →
      Part.memory.same t t' → t'.iReg = t.iReg → t'.reg x = s.reg x → t'.reg y = s.reg y →
      Completes (.drwVxVyN x y n) t' fun u => Part.frame.same s u ∧
        (u.reg vf = 1 ↔ ∃ c < 2048, s.fb.cell c = false ∧
          spriteBit s.mem s.iReg.toNat (s.reg x).toNat (s.reg y).toNat n.toNat c = true) ∧
        ((∀ c < 2048, s.fb.cell c = false) →
          (∃ i k, i < n.toNat ∧ k < 8 ∧ (s.mem.byteAt (s.iReg.toNat + i)).getLsbD k = true) →
          t.reg vf = 0 ∧ u.reg vf = 1)

/-! ## Keypad and delay timer -/

/-- R230, R231, with R234. -/
def Obligations.KeypadSkipsTestTheNamedKey : Prop :=
  ∀ (x : RegIdx) (s : State),
    Encodes (.skpVx x) (0xE09E + x.val * 256) ∧ Encodes (.sknpVx x) (0xE0A1 + x.val * 256) ∧
    (15 < (s.reg x).toNat → Faults (.skpVx x) s 5 0 ∧ Faults (.sknpVx x) s 5 0) ∧
    ((s.reg x).toNat ≤ 15 →
      Skips (.skpVx x) s (s.keys.getLsbD (s.reg x).toNat = true) ∧
      Skips (.sknpVx x) s (s.keys.getLsbD (s.reg x).toNat = false))

/-- R232, R233: LD Vx,DT and LD DT,Vx. The last two clauses are the spec's inference from R125 and R263
and hold for the machine's TICK_MODE = COUPLED (notes/assumptions/9.md): the timer is read, or written,
before the tick of the same step, so that a step of LD DT,Vx leaves V[x] − 1, or 0. -/
def Obligations.DelayTimerIsReadAndSetBeforeTheTick : Prop :=
  ∀ (x : RegIdx) (s : State),
    (Encodes (.ldVxDt x) (0xF007 + x.val * 256) ∧ Loads (.ldVxDt x) s x s.dt) ∧
    (Encodes (.ldDtVx x) (0xF015 + x.val * 256) ∧ Completes (.ldDtVx x) s fun t =>
      t.dt = s.reg x ∧ Advances 2 s t ∧ Kept [.delay, .pc] s t) ∧
    (s.mode = .run → s.pc.toNat < 4095 → decode (wordAt s) = .ok (.ldDtVx x) →
      ∃ u, step s = .next u ∧ u.dt.toNat = (s.reg x).toNat - 1) ∧
    (s.mode = .run → s.pc.toNat < 4095 → decode (wordAt s) = .ok (.ldVxDt x) →
      ∃ u, step s = .next u ∧ u.reg x = s.dt ∧ u.dt.toNat = s.dt.toNat - 1)

/-- R304, R265: DT falls by one in every step that does not fault and does not load it. -/
def Obligations.DelayTimerCountsInstructions : Prop :=
  ∀ s t : State, s.mode = .run → step s = .next t → t.mode = .run →
    (∀ x, decode (wordAt s) ≠ .ok (.ldDtVx x)) → t.dt.toNat = s.dt.toNat - 1

/-! ## Rules of the whole machine -/

/-- R39: the access matrix, what each instruction writes: in RUN an instruction either takes a fault, or
leaves every part, every register and every byte of memory unchanged that its row does not give as
written; the bytes of a store are those from the model's `baseAddr` on. -/
def Obligations.InstructionsWriteOnlyTheirRow : Prop :=
  ∀ (i : Instr) (s t : State), s.mode = .run → exec i s = .next t →
    (∃ code addr, executeFault i = some code ∧ FaultEntry code (encode i) addr s t) ∨
    (t.mode = .run ∧ Kept (writes i) s t ∧ RegsKept (destination i) s t ∧
      BytesKept (baseAddr s) (storedBytes i) s t)

/-- R257: fault entry, for each of the five causes of R250. -/
def Obligations.TakingAFaultRecordsItAndHalts : Prop :=
  ∀ (c : FaultCause) (w : Word) (a : Nat) (s : State), a < 2 ^ 17 →
    FaultEntry c.code.toNat w a s (takeFault c w a s) ∧ 1 ≤ c.code.toNat ∧ c.code.toNat ≤ 5

/-- R250, R258: only nine instructions can fault in their execute phase, each with its one cause, and a
fault of a step is precise: nothing changes but mode, the fault registers and the beep output. -/
def Obligations.FaultsArePreciseAndHaveTheirCause : Prop :=
  ∀ s t : State, s.mode = .run → step s = .next t → t.mode = .halt →
    Part.regs.same s t ∧ Kept [.control, .ports] s t ∧ t.fpc = s.pc ∧ t.beep = false ∧
    ((t.fcause.toNat = 2 ∧ t.fopcode = 0 ∧ 4095 ≤ s.pc.toNat) ∨
      (s.pc.toNat < 4095 ∧ t.fopcode = wordAt s ∧
        ((t.fcause.toNat = 1 ∧ ∃ e, decode (wordAt s) = .error e) ∨
          ∃ i, decode (wordAt s) = .ok i ∧ executeFault i = some t.fcause.toNat)))

/-- R34: only SKP and SKNP read the keypad: any other instruction does the same for every keypad
input. -/
def Obligations.OnlyKeypadSkipsReadTheKeypad : Prop :=
  ∀ (i : Instr) (s t : State) (keys : Word), (∀ x, i ≠ .skpVx x ∧ i ≠ .sknpVx x) →
    exec i s = .next t → exec i (s.setKeys keys) = .next (t.setKeys keys)

/-- R31: the random source advances once per executed Cxkk and never otherwise, not on a tick, a fault,
or another instruction. -/
def Obligations.OnlyRndAdvancesTheRandomSource : Prop :=
  ∀ s t : State, step s = .next t → t.rng ≠ s.rng →
    s.mode = .run ∧ ∃ x kk, decode (wordAt s) = .ok (.rndVxKk x kk)

/-- R28: the framebuffer changes only in a step of DRW or CLS, and SP and the call stack (R24) only in a
step of CALL or RET. -/
def Obligations.FramebufferAndCallStackHaveTheirOwnInstructions : Prop :=
  ∀ s t : State, step s = .next t →
    (¬ Part.frame.same s t → decode (wordAt s) = .ok .cls ∨
      ∃ x y n, decode (wordAt s) = .ok (.drwVxVyN x y n)) ∧
    (¬ Part.callStack.same s t → decode (wordAt s) = .ok .ret ∨
      ∃ a, decode (wordAt s) = .ok (.callAddr a))

/-- R313, with R30 and R264: from a state with ST = 0, reset among them, no sequence of host transactions
makes ST anything but 0 or emits a beep. That the port `beep` is false right after a `reset`, before any
step, is the model's choice and no rule of the spec (notes/assumptions/3.md, 19.md). -/
def Obligations.SoundTimerStaysDead : Prop :=
  ∀ (es : List HostEvent) (s t : State), s.st = 0 → s.beep = false → hostRun es s = .next t →
    t.st = 0 ∧ t.beep = false

/-- R126, R302: what a sequence of host transactions leaves depends on the keypad input of a step only
through SKP and SKNP: when the word at PC is neither, two steps with different inputs end alike but for
the input port. -/
def Obligations.KeypadInputIsInvisibleToOtherSteps : Prop :=
  ∀ (s t : State) (k k' : Word), (∀ x, decode (wordAt s) ≠ .ok (.skpVx x)) →
    (∀ x, decode (wordAt s) ≠ .ok (.sknpVx x)) →
    hostEvent (.step k) s = .next t → hostEvent (.step k') s = .next (t.setKeys k')
end

