-- ==== Sys2Proof/Laws/Decode.lean ====
section
/-!
SUPPORT. The fields of a word assembled from fields, the bytes of a word, and what each nested part of
the decoder accepts.
-/

namespace Sys2Proof

@[simp] theorem toNat_wordAddr (op : Nat) (a : Addr12) (h : op < 16) :
    (wordAddr op a).toNat = op * 4096 + a.toNat := by
  have := a.isLt
  simp only [wordAddr, BitVec.toNat_ofNat]; omega

@[simp] theorem toNat_wordXKK (op : Nat) (x : RegIdx) (kk : Byte) (h : op < 16) :
    (wordXKK op x kk).toNat = op * 4096 + x.val * 256 + kk.toNat := by
  have := x.isLt; have := kk.isLt
  simp only [wordXKK, BitVec.toNat_ofNat]; omega

@[simp] theorem toNat_wordXYN (op : Nat) (x y : RegIdx) (n : BitVec 4) (h : op < 16) :
    (wordXYN op x y n).toNat = op * 4096 + x.val * 256 + y.val * 16 + n.toNat := by
  have := x.isLt; have := y.isLt; have := n.isLt
  simp only [wordXYN, BitVec.toNat_ofNat]; omega

@[simp] theorem opField_wordAddr (op : Nat) (a : Addr12) (h : op < 16) :
    opField (wordAddr op a) = op := by
  have := a.isLt
  simp only [opField, toNat_wordAddr op a h]; omega

@[simp] theorem addrField_wordAddr (op : Nat) (a : Addr12) (h : op < 16) :
    addrField (wordAddr op a) = a := by
  have := a.isLt
  apply BitVec.eq_of_toNat_eq
  simp only [addrField, toNat_wordAddr op a h, BitVec.toNat_ofNat]; omega

@[simp] theorem opField_wordXKK (op : Nat) (x : RegIdx) (kk : Byte) (h : op < 16) :
    opField (wordXKK op x kk) = op := by
  have := x.isLt; have := kk.isLt
  simp only [opField, toNat_wordXKK op x kk h]; omega

@[simp] theorem xField_wordXKK (op : Nat) (x : RegIdx) (kk : Byte) (h : op < 16) :
    xField (wordXKK op x kk) = x := by
  have := x.isLt; have := kk.isLt
  apply Fin.ext
  simp only [xField, toNat_wordXKK op x kk h, Fin.ofNat]; omega

@[simp] theorem kkField_wordXKK (op : Nat) (x : RegIdx) (kk : Byte) (h : op < 16) :
    kkField (wordXKK op x kk) = kk := by
  have := x.isLt; have := kk.isLt
  apply BitVec.eq_of_toNat_eq
  simp only [kkField, toNat_wordXKK op x kk h, BitVec.toNat_ofNat]; omega

@[simp] theorem opField_wordXYN (op : Nat) (x y : RegIdx) (n : BitVec 4) (h : op < 16) :
    opField (wordXYN op x y n) = op := by
  have := x.isLt; have := y.isLt; have := n.isLt
  simp only [opField, toNat_wordXYN op x y n h]; omega

@[simp] theorem xField_wordXYN (op : Nat) (x y : RegIdx) (n : BitVec 4) (h : op < 16) :
    xField (wordXYN op x y n) = x := by
  have := x.isLt; have := y.isLt; have := n.isLt
  apply Fin.ext
  simp only [xField, toNat_wordXYN op x y n h, Fin.ofNat]; omega

@[simp] theorem yField_wordXYN (op : Nat) (x y : RegIdx) (n : BitVec 4) (h : op < 16) :
    yField (wordXYN op x y n) = y := by
  have := x.isLt; have := y.isLt; have := n.isLt
  apply Fin.ext
  simp only [yField, toNat_wordXYN op x y n h, Fin.ofNat]; omega

@[simp] theorem nField_wordXYN (op : Nat) (x y : RegIdx) (n : BitVec 4) (h : op < 16) :
    nField (wordXYN op x y n) = n := by
  have := x.isLt; have := y.isLt; have := n.isLt
  apply BitVec.eq_of_toNat_eq
  simp only [nField, toNat_wordXYN op x y n h, BitVec.toNat_ofNat]; omega

/-- The two bytes of a word, joined, are the word (spec/20_memory.md R64). -/
@[simp] theorem joinBytes_highByte_lowByte (w : Word) : joinBytes (highByte w) (lowByte w) = w := by
  have := w.isLt
  apply BitVec.eq_of_toNat_eq
  simp only [joinBytes, highByte, lowByte, BitVec.toNat_ofNat]; omega

@[simp] theorem toNat_joinBytes (hi lo : Byte) :
    (joinBytes hi lo).toNat = hi.toNat * 256 + lo.toNat := by
  have := hi.isLt; have := lo.isLt
  simp only [joinBytes, BitVec.toNat_ofNat]; omega

/-- A word from its first two fields. -/
theorem toNat_eq_addr (w : Word) : w.toNat = opField w * 4096 + (addrField w).toNat := by
  have := w.isLt
  simp only [opField, addrField, BitVec.toNat_ofNat]; omega

/-- A word from op, x and kk. -/
theorem toNat_eq_xkk (w : Word) :
    w.toNat = opField w * 4096 + (xField w).val * 256 + (kkField w).toNat := by
  have := w.isLt
  simp only [opField, xField, kkField, Fin.ofNat, BitVec.toNat_ofNat]; omega

/-- A word from op, x, y and n. -/
theorem toNat_eq_xyn (w : Word) :
    w.toNat = opField w * 4096 + (xField w).val * 256 + (yField w).val * 16 + (nField w).toNat := by
  have := w.isLt
  simp only [opField, xField, yField, nField, Fin.ofNat, BitVec.toNat_ofNat]; omega

theorem opField_lt (w : Word) : opField w < 16 := by
  have := w.isLt
  simp only [opField]; omega

/-- Splitting a word at its kk byte gives back the word. -/
theorem wordXKK_fields (w : Word) : wordXKK (opField w) (xField w) (kkField w) = w :=
  BitVec.eq_of_toNat_eq (by rw [toNat_wordXKK _ _ _ (opField_lt w), ← toNat_eq_xkk])

/-- Splitting a word at its addr field gives back the word. -/
theorem wordAddr_fields (w : Word) : wordAddr (opField w) (addrField w) = w :=
  BitVec.eq_of_toNat_eq (by rw [toNat_wordAddr _ _ (opField_lt w), ← toNat_eq_addr])

/-- Splitting a word into nibbles gives back the word. -/
theorem wordXYN_fields (w : Word) :
    wordXYN (opField w) (xField w) (yField w) (nField w) = w :=
  BitVec.eq_of_toNat_eq (by rw [toNat_wordXYN _ _ _ _ (opField_lt w), ← toNat_eq_xyn])

end Sys2Proof
end

