-- ==== Sys2Proof/Laws/Frame.lean ====
section
/-!
SUPPORT. The framebuffer one cell at a time.
-/

namespace Sys2Proof.Machine

open Sys2Proof

/-- A toggle inverts its own cell and no other (spec/44_display.md R211). -/
theorem cell_toggle (f : Framebuffer) {c : Nat} (hc : c < 2048) (c' : Nat) :
    (f.toggle c).cell c' = if c' = c then !f.cell c' else f.cell c' := by
  have hrow : c / 64 < 32 := by omega
  simp only [Framebuffer.toggle, Framebuffer.cell, dif_pos hrow]
  by_cases h' : c' / 64 < 32
  · simp only [dif_pos h', Vector.getElem_set]
    by_cases hr : c / 64 = c' / 64
    · simp only [if_pos hr, BitVec.getLsbD_xor, BitVec.getLsbD_shiftLeft, BitVec.getLsbD_one]
      have : c' % 64 < 64 := Nat.mod_lt _ (by omega)
      by_cases he : c' = c
      · subst he
        simp [this]
      · have hne : c' % 64 ≠ c % 64 := by omega
        rw [if_neg he]
        have : ¬(c' % 64 < c % 64) → c' % 64 - c % 64 ≠ 0 := by omega
        simp only [hr]
        by_cases hl : c' % 64 < c % 64 <;> simp_all
    · rw [if_neg hr, if_neg (by rintro rfl; exact hr rfl)]
  · simp only [dif_neg h']
    rw [if_neg (by rintro rfl; exact h' hrow)]

/-- After a clear every cell is off (R210). -/
@[simp] theorem cell_clear (c : Nat) : Framebuffer.clear.cell c = false := by
  simp [Framebuffer.cell, Framebuffer.clear]

/-- A pixel's cell is a cell of the framebuffer. -/
theorem cellIndex_lt (x y : Nat) : cellIndex x y < 2048 := by
  unfold cellIndex; omega

/-- Two pixels of one cell agree modulo the plane's size. -/
theorem cellIndex_inj {x y x' y' : Nat} :
    cellIndex x y = cellIndex x' y' ↔ x % 64 = x' % 64 ∧ y % 32 = y' % 32 := by
  unfold cellIndex; omega

/-- What one pixel does to one cell. -/
theorem cell_drawPixel (x0 y : Nat) (row : Byte) (p : Framebuffer × Bool) (k c : Nat) :
    (drawPixel x0 y row p k).1.cell c =
      (p.1.cell c ^^ (row.getLsbD (7 - k) && decide (c = cellIndex (x0 + k) y))) := by
  unfold drawPixel
  split
  · next h =>
    rw [cell_toggle _ (cellIndex_lt _ _)]
    by_cases hc : c = cellIndex (x0 + k) y <;> simp [hc, h]
  · next h => simp [h]

/-- What one pixel does to the collision. -/
theorem hit_drawPixel (x0 y : Nat) (row : Byte) (p : Framebuffer × Bool) (k : Nat) :
    (drawPixel x0 y row p k).2 =
      (p.2 || (row.getLsbD (7 - k) && p.1.cell (cellIndex (x0 + k) y))) := by
  unfold drawPixel
  split
  · next h => rw [h, Bool.true_and]
  · next h => rw [Bool.eq_false_iff.2 h, Bool.false_and, Bool.or_false]

/-- One pixel of a sprite: the plane row, the byte and the bit of it. -/
def pixelStep (x0 : Nat) (p : Framebuffer × Bool) (q : Nat × Byte × Nat) : Framebuffer × Bool :=
  drawPixel x0 q.1 q.2.1 p q.2.2

/-- The pixels of a sprite whose top row is plane row `y`: row by row, each from left to right. -/
def pixels : Nat → List Byte → List (Nat × Byte × Nat)
  | _, [] => []
  | y, row :: rest => (List.range 8).map (fun k => (y, row, k)) ++ pixels (y + 1) rest

/-- A sprite is drawn pixel by pixel. -/
theorem drawRows_eq (x0 y : Nat) (rows : List Byte) (p : Framebuffer × Bool) :
    drawRows x0 y rows p = (pixels y rows).foldl (pixelStep x0) p := by
  induction rows generalizing y p with
  | nil => rfl
  | cons row rest ih =>
    rw [drawRows, ih, pixels, List.foldl_append, List.foldl_map]; rfl

/-- Pixels of distinct cells: each cell is toggled at most once. -/
theorem foldl_pixels (x0 : Nat) (qs : List (Nat × Byte × Nat)) (p : Framebuffer × Bool)
    (h : qs.Pairwise fun q r => cellIndex (x0 + q.2.2) q.1 ≠ cellIndex (x0 + r.2.2) r.1) :
    (∀ c, (qs.foldl (pixelStep x0) p).1.cell c =
      (p.1.cell c ^^ qs.any fun q =>
        q.2.1.getLsbD (7 - q.2.2) && decide (c = cellIndex (x0 + q.2.2) q.1))) ∧
    (qs.foldl (pixelStep x0) p).2 =
      (p.2 || qs.any fun q =>
        q.2.1.getLsbD (7 - q.2.2) && p.1.cell (cellIndex (x0 + q.2.2) q.1)) := by
  induction qs generalizing p with
  | nil => simp
  | cons q rest ih =>
    obtain ⟨hq, hr⟩ := List.pairwise_cons.1 h
    obtain ⟨h1, h2⟩ := ih (pixelStep x0 p q) hr
    simp only [List.foldl_cons, List.any_cons]
    constructor
    · intro c
      rw [h1, pixelStep, cell_drawPixel]
      by_cases hc : c = cellIndex (x0 + q.2.2) q.1
      · have : (rest.any fun q => q.2.1.getLsbD (7 - q.2.2) &&
            decide (c = cellIndex (x0 + q.2.2) q.1)) = false := by
          rw [List.any_eq_false]
          intro r hr
          have := hq r hr
          rw [← hc] at this
          simp [this]
        rw [this]; simp
      · simp [hc]
    · rw [h2, pixelStep, hit_drawPixel]
      have : (rest.any fun r => r.2.1.getLsbD (7 - r.2.2) &&
          (drawPixel x0 q.1 q.2.1 p q.2.2).1.cell (cellIndex (x0 + r.2.2) r.1)) =
        rest.any fun r => r.2.1.getLsbD (7 - r.2.2) && p.1.cell (cellIndex (x0 + r.2.2) r.1) := by
        rw [Bool.eq_iff_iff]; simp only [List.any_eq_true]
        apply exists_congr; intro r; apply and_congr_right; intro hr
        rw [cell_drawPixel]
        have := (hq r hr).symm
        simp [this]
      rw [this, Bool.or_assoc]

/-- Pixel k of row i. -/
theorem mem_pixels {y : Nat} {rows : List Byte} {q : Nat × Byte × Nat} :
    q ∈ pixels y rows ↔ ∃ i, ∃ h : i < rows.length, q.1 = y + i ∧ q.2.1 = rows[i] ∧ q.2.2 < 8 := by
  induction rows generalizing y with
  | nil => simp [pixels]
  | cons row rest ih =>
    simp only [pixels, List.mem_append, List.mem_map, List.mem_range, ih]
    constructor
    · rintro (⟨k, hk, rfl⟩ | ⟨i, h, h1, h2, h3⟩)
      · exact ⟨0, by simp, by simp, by simp, hk⟩
      · exact ⟨i + 1, by simpa using h, by omega, by simpa using h2, h3⟩
    · rintro ⟨i, h, h1, h2, h3⟩
      cases i with
      | zero => exact .inl ⟨q.2.2, h3, by simp at h1 h2; rw [← h1, ← h2]⟩
      | succ i => exact .inr ⟨i, by simpa using h, by omega, by simpa using h2, h3⟩

/-- A sprite of at most 32 rows has one pixel per cell (R212). -/
theorem pairwise_pixels (x0 y : Nat) (rows : List Byte) (h : rows.length ≤ 32) :
    (pixels y rows).Pairwise fun q r => cellIndex (x0 + q.2.2) q.1 ≠ cellIndex (x0 + r.2.2) r.1 := by
  induction rows generalizing y with
  | nil => exact .nil
  | cons row rest ih =>
    simp only [List.length_cons] at h
    rw [pixels, List.pairwise_append]
    refine ⟨?_, ih _ (by omega), ?_⟩
    · rw [List.pairwise_map]
      refine (List.pairwise_lt_range (n := 8)).imp_of_mem ?_
      intro a b ha hb hab
      simp only [List.mem_range] at ha hb
      rw [Ne, cellIndex_inj]; simp only; omega
    · intro q hq r hr
      simp only [List.mem_map, List.mem_range] at hq
      obtain ⟨k, hk, rfl⟩ := hq
      obtain ⟨i, hi, h1, -, h3⟩ := mem_pixels.1 hr
      rw [Ne, cellIndex_inj]; simp only; omega

/-- Everything a sprite does (spec/44_display.md R211, R212): each cell is exclusive-ored with the set
sprite bit that maps to it, and a hit is a set sprite bit on a lit cell. -/
theorem drawSprite_spec (x0 y0 : Nat) (rows : List Byte) (f : Framebuffer) (h : rows.length ≤ 32) :
    (∀ c, (drawSprite x0 y0 rows f).1.cell c = (f.cell c ^^
      (pixels y0 rows).any fun q => q.2.1.getLsbD (7 - q.2.2) && decide (c = cellIndex (x0 + q.2.2) q.1))) ∧
    (drawSprite x0 y0 rows f).2 = (pixels y0 rows).any fun q =>
      q.2.1.getLsbD (7 - q.2.2) && f.cell (cellIndex (x0 + q.2.2) q.1) := by
  have := foldl_pixels x0 (pixels y0 rows) (f, false) (pairwise_pixels x0 y0 rows h)
  simpa [drawSprite, drawRows_eq] using this

end Sys2Proof.Machine
end

