-- ==== Sys2Proof/Laws/Memory.lean ====
section
/-!
SUPPORT. What the memory operations do: reading one byte after a write, and the canonical form.
-/

namespace Sys2Proof.Machine

open Sys2Proof

/-- A write leaves every other address as it was. -/
theorem byteAt_put_of_ne (m : Memory) {a a' : Nat} (v : Byte) (h : a' ≠ a) :
    (m.put a v).byteAt a' = m.byteAt a' := by
  induction m with
  | nil => unfold Memory.put; split <;> simp [Memory.byteAt, h]
  | cons c rest ih =>
    obtain ⟨b, w⟩ := c
    simp only [Memory.put]
    split
    · split <;> simp [Memory.byteAt, h]
    · split
      · subst_vars
        split <;> simp [Memory.byteAt, h]
      · simp [Memory.byteAt, ih]

/-- An address below all listed ones reads as its reset contents. -/
theorem byteAt_of_lt (m : Memory) {a : Nat} (h : ∀ c ∈ m, a < c.1) :
    m.byteAt a = Config.resetByte a := by
  induction m with
  | nil => rfl
  | cons c rest ih =>
    have hc := h c (by simp)
    simp only [Memory.byteAt]
    rw [if_neg (by omega), ih fun d hd => h d (by simp [hd])]

/-- A sorted memory reads back what was written. -/
theorem byteAt_put_self_of_sorted (m : Memory) (a : Nat) (v : Byte)
    (h : m.Pairwise fun c d => c.1 < d.1) : (m.put a v).byteAt a = v := by
  induction m with
  | nil => unfold Memory.put; split <;> simp_all [Memory.byteAt]
  | cons c rest ih =>
    obtain ⟨b, w⟩ := c
    obtain ⟨hb, hrest⟩ := List.pairwise_cons.1 h
    simp only [Memory.put]
    split
    · split
      · rw [byteAt_of_lt]
        · simp_all
        · intro d hd
          rcases List.mem_cons.1 hd with rfl | hd
          · assumption
          · have := hb d hd; simp only at this; omega
      · simp [Memory.byteAt]
    · split
      · subst_vars
        split
        · rw [byteAt_of_lt rest hb]; simp_all
        · simp [Memory.byteAt]
      · rename_i hab
        simp [Memory.byteAt, hab, ih hrest]

/-- A memory in canonical form reads back what was written (spec/20_memory.md R63). -/
theorem byteAt_put_self {m : Memory} (h : m.wf) (a : Nat) (v : Byte) : (m.put a v).byteAt a = v :=
  byteAt_put_self_of_sorted m a v h.1

/-- The entries after a write: the written one, or an old one. -/
theorem mem_put {m : Memory} {a : Nat} {v : Byte} {c : Host.Cell} (h : c ∈ m.put a v) :
    c = (a, v) ∧ v ≠ Config.resetByte a ∨ c ∈ m := by
  induction m with
  | nil => unfold Memory.put at h; split at h <;> simp_all
  | cons d rest ih =>
    obtain ⟨b, w⟩ := d
    simp only [Memory.put] at h
    split at h
    · split at h
      · exact .inr h
      · rcases List.mem_cons.1 h with rfl | h
        · exact .inl ⟨rfl, ‹_›⟩
        · exact .inr h
    · split at h
      · split at h
        · exact .inr (List.mem_cons_of_mem _ h)
        · rcases List.mem_cons.1 h with rfl | h
          · exact .inl ⟨rfl, ‹_›⟩
          · exact .inr (List.mem_cons_of_mem _ h)
      · rcases List.mem_cons.1 h with rfl | h
        · exact .inr (by simp)
        · exact (ih h).imp_right (List.mem_cons_of_mem _)

/-- A write keeps the addresses strictly rising. -/
theorem sorted_put {m : Memory} (a : Nat) (v : Byte) (h : m.Pairwise fun c d => c.1 < d.1) :
    (m.put a v).Pairwise fun c d => c.1 < d.1 := by
  induction m with
  | nil => unfold Memory.put; split <;> simp
  | cons c rest ih =>
    obtain ⟨b, w⟩ := c
    obtain ⟨hb, hrest⟩ := List.pairwise_cons.1 h
    simp only [Memory.put]
    split
    · split
      · exact h
      · refine List.pairwise_cons.2 ⟨fun d hd => ?_, h⟩
        rcases List.mem_cons.1 hd with rfl | hd
        · assumption
        · have := hb d hd; simp only at this ⊢; omega
    · split
      · split
        · exact hrest
        · subst_vars; exact List.pairwise_cons.2 ⟨hb, hrest⟩
      · refine List.pairwise_cons.2 ⟨fun d hd => ?_, ih hrest⟩
        rcases mem_put hd with ⟨rfl, -⟩ | hd
        · simp only; omega
        · exact hb d hd

/-- A write at a valid address keeps the canonical form. -/
theorem wf_put {m : Memory} (h : m.wf) {a : Nat} (ha : a < 4096) (v : Byte) : (m.put a v).wf := by
  refine ⟨sorted_put a v h.1, fun c hc => ?_⟩
  rcases mem_put hc with ⟨rfl, hv⟩ | hc
  · exact ⟨ha, hv⟩
  · exact h.2 c hc

/-- A write of several bytes leaves every address outside them as it was. -/
theorem byteAt_putBytes_of_outside (bytes : List Byte) (m : Memory) {base a : Nat}
    (h : a < base ∨ base + bytes.length ≤ a) : (putBytes m base bytes).byteAt a = m.byteAt a := by
  induction bytes generalizing m base with
  | nil => rfl
  | cons b rest ih =>
    simp only [List.length_cons] at h
    rw [putBytes, ih _ (by omega), byteAt_put_of_ne _ _ (by omega)]

/-- A write of several bytes at valid addresses keeps the canonical form. -/
theorem wf_putBytes (bytes : List Byte) {m : Memory} (h : m.wf) {base : Nat}
    (hb : base + bytes.length ≤ 4096) : (putBytes m base bytes).wf := by
  induction bytes generalizing m base with
  | nil => exact h
  | cons b rest ih =>
    simp only [List.length_cons] at hb
    exact ih (wf_put h (by omega) b) (by omega)

/-- A write of several bytes keeps the addresses strictly rising. -/
theorem sorted_putBytes (bytes : List Byte) {m : Memory} (base : Nat)
    (h : m.Pairwise fun c d => c.1 < d.1) :
    (putBytes m base bytes).Pairwise fun c d => c.1 < d.1 := by
  induction bytes generalizing m base with
  | nil => exact h
  | cons b rest ih => exact ih _ (sorted_put base b h)

/-- A write of several bytes reads back byte by byte, by ascending address. -/
theorem byteAt_putBytes_inside (bytes : List Byte) {m : Memory} (base k : Nat)
    (h : m.Pairwise fun c d => c.1 < d.1) (hk : k < bytes.length) :
    (putBytes m base bytes).byteAt (base + k) = bytes[k] := by
  induction bytes generalizing m base k with
  | nil => simp at hk
  | cons b rest ih =>
    rw [putBytes]
    cases k with
    | zero =>
      rw [byteAt_putBytes_of_outside _ _ (by omega)]
      exact byteAt_put_self_of_sorted m base b h
    | succ j =>
      have := ih (base + 1) j (sorted_put base b h) (by simpa using hk)
      simpa [Nat.add_assoc, Nat.add_comm 1 j] using this

@[simp] theorem length_bytesFrom (m : Memory) (base count : Nat) :
    (bytesFrom m base count).length = count := by
  simp [bytesFrom]

@[simp] theorem getElem_bytesFrom (m : Memory) (base count k : Nat)
    (h : k < (bytesFrom m base count).length) :
    (bytesFrom m base count)[k] = m.byteAt (base + k) := by
  simp [bytesFrom]

/-- No byte is invalid exactly when the last one is in range, or there is none. -/
theorem firstInvalid_eq_none {base count : Nat} :
    firstInvalid base count = none ↔ count = 0 ∨ base + count ≤ 4096 := by
  unfold firstInvalid
  split
  · simp only [reduceCtorEq, false_iff]; omega
  · simp only [true_iff]; omega

/-- Otherwise the first invalid address is reported. -/
theorem firstInvalid_eq_some {base count a : Nat} :
    firstInvalid base count = some a ↔ 0 < count ∧ 4096 < base + count ∧ a = max base 4096 := by
  unfold firstInvalid
  split
  · simp only [Option.some.injEq]; omega
  · simp only [reduceCtorEq, false_iff]; omega

/-- Everything a read can answer (spec/20_memory.md R62, R64, R65). -/
theorem readBytes_eq (m : Memory) (base count : Nat) :
    readBytes m base count =
      if count = 0 ∨ base + count ≤ 4096 then .ok (bytesFrom m base count)
      else .error (max base 4096) := by
  unfold readBytes
  split
  · next a h =>
    obtain ⟨h1, h2, rfl⟩ := firstInvalid_eq_some.1 h
    rw [if_neg (by omega)]
  · next h => rw [if_pos (firstInvalid_eq_none.1 h)]

/-- Everything a write can answer (spec/20_memory.md R63, R65). -/
theorem writeBytes_eq (m : Memory) (base : Nat) (bytes : List Byte) :
    writeBytes m base bytes =
      if bytes.length = 0 ∨ base + bytes.length ≤ 4096 then .ok (putBytes m base bytes)
      else .error (max base 4096) := by
  unfold writeBytes
  split
  · next a h =>
    obtain ⟨h1, h2, rfl⟩ := firstInvalid_eq_some.1 h
    rw [if_neg (by omega)]
  · next h => rw [if_pos (firstInvalid_eq_none.1 h)]

end Sys2Proof.Machine
end

