-- ==== Sys2Proof/Laws/State.lean ====
section
/-!
SUPPORT. One lemma per field per update of the state, so that no proof unfolds a record update; the
registers are read through `State.reg`.
-/

namespace Sys2Proof.Machine

open Sys2Proof

/-! ### setReg -/

@[simp] theorem iReg_setReg (s : State) (r : RegIdx) (b : Byte) :
    (s.setReg r b).iReg = s.iReg := rfl

@[simp] theorem pc_setReg (s : State) (r : RegIdx) (b : Byte) :
    (s.setReg r b).pc = s.pc := rfl

@[simp] theorem sp_setReg (s : State) (r : RegIdx) (b : Byte) :
    (s.setReg r b).sp = s.sp := rfl

@[simp] theorem stack_setReg (s : State) (r : RegIdx) (b : Byte) :
    (s.setReg r b).stack = s.stack := rfl

@[simp] theorem mem_setReg (s : State) (r : RegIdx) (b : Byte) :
    (s.setReg r b).mem = s.mem := rfl

@[simp] theorem fb_setReg (s : State) (r : RegIdx) (b : Byte) :
    (s.setReg r b).fb = s.fb := rfl

@[simp] theorem dt_setReg (s : State) (r : RegIdx) (b : Byte) :
    (s.setReg r b).dt = s.dt := rfl

@[simp] theorem st_setReg (s : State) (r : RegIdx) (b : Byte) :
    (s.setReg r b).st = s.st := rfl

@[simp] theorem rng_setReg (s : State) (r : RegIdx) (b : Byte) :
    (s.setReg r b).rng = s.rng := rfl

@[simp] theorem mode_setReg (s : State) (r : RegIdx) (b : Byte) :
    (s.setReg r b).mode = s.mode := rfl

@[simp] theorem fcause_setReg (s : State) (r : RegIdx) (b : Byte) :
    (s.setReg r b).fcause = s.fcause := rfl

@[simp] theorem fopcode_setReg (s : State) (r : RegIdx) (b : Byte) :
    (s.setReg r b).fopcode = s.fopcode := rfl

@[simp] theorem fpc_setReg (s : State) (r : RegIdx) (b : Byte) :
    (s.setReg r b).fpc = s.fpc := rfl

@[simp] theorem faddr_setReg (s : State) (r : RegIdx) (b : Byte) :
    (s.setReg r b).faddr = s.faddr := rfl

@[simp] theorem keys_setReg (s : State) (r : RegIdx) (b : Byte) :
    (s.setReg r b).keys = s.keys := rfl

@[simp] theorem beep_setReg (s : State) (r : RegIdx) (b : Byte) :
    (s.setReg r b).beep = s.beep := rfl

/-! ### setI -/

@[simp] theorem v_setI (s : State) (a : Word) :
    (s.setI a).v = s.v := rfl

@[simp] theorem iReg_setI (s : State) (a : Word) :
    (s.setI a).iReg = a := rfl

@[simp] theorem pc_setI (s : State) (a : Word) :
    (s.setI a).pc = s.pc := rfl

@[simp] theorem sp_setI (s : State) (a : Word) :
    (s.setI a).sp = s.sp := rfl

@[simp] theorem stack_setI (s : State) (a : Word) :
    (s.setI a).stack = s.stack := rfl

@[simp] theorem mem_setI (s : State) (a : Word) :
    (s.setI a).mem = s.mem := rfl

@[simp] theorem fb_setI (s : State) (a : Word) :
    (s.setI a).fb = s.fb := rfl

@[simp] theorem dt_setI (s : State) (a : Word) :
    (s.setI a).dt = s.dt := rfl

@[simp] theorem st_setI (s : State) (a : Word) :
    (s.setI a).st = s.st := rfl

@[simp] theorem rng_setI (s : State) (a : Word) :
    (s.setI a).rng = s.rng := rfl

@[simp] theorem mode_setI (s : State) (a : Word) :
    (s.setI a).mode = s.mode := rfl

@[simp] theorem fcause_setI (s : State) (a : Word) :
    (s.setI a).fcause = s.fcause := rfl

@[simp] theorem fopcode_setI (s : State) (a : Word) :
    (s.setI a).fopcode = s.fopcode := rfl

@[simp] theorem fpc_setI (s : State) (a : Word) :
    (s.setI a).fpc = s.fpc := rfl

@[simp] theorem faddr_setI (s : State) (a : Word) :
    (s.setI a).faddr = s.faddr := rfl

@[simp] theorem keys_setI (s : State) (a : Word) :
    (s.setI a).keys = s.keys := rfl

@[simp] theorem beep_setI (s : State) (a : Word) :
    (s.setI a).beep = s.beep := rfl

@[simp] theorem reg_setI (s : State) (a : Word) (q : RegIdx) :
    (s.setI a).reg q = s.reg q := rfl

/-! ### setPc -/

@[simp] theorem v_setPc (s : State) (a : Word) :
    (s.setPc a).v = s.v := rfl

@[simp] theorem iReg_setPc (s : State) (a : Word) :
    (s.setPc a).iReg = s.iReg := rfl

@[simp] theorem pc_setPc (s : State) (a : Word) :
    (s.setPc a).pc = a := rfl

@[simp] theorem sp_setPc (s : State) (a : Word) :
    (s.setPc a).sp = s.sp := rfl

@[simp] theorem stack_setPc (s : State) (a : Word) :
    (s.setPc a).stack = s.stack := rfl

@[simp] theorem mem_setPc (s : State) (a : Word) :
    (s.setPc a).mem = s.mem := rfl

@[simp] theorem fb_setPc (s : State) (a : Word) :
    (s.setPc a).fb = s.fb := rfl

@[simp] theorem dt_setPc (s : State) (a : Word) :
    (s.setPc a).dt = s.dt := rfl

@[simp] theorem st_setPc (s : State) (a : Word) :
    (s.setPc a).st = s.st := rfl

@[simp] theorem rng_setPc (s : State) (a : Word) :
    (s.setPc a).rng = s.rng := rfl

@[simp] theorem mode_setPc (s : State) (a : Word) :
    (s.setPc a).mode = s.mode := rfl

@[simp] theorem fcause_setPc (s : State) (a : Word) :
    (s.setPc a).fcause = s.fcause := rfl

@[simp] theorem fopcode_setPc (s : State) (a : Word) :
    (s.setPc a).fopcode = s.fopcode := rfl

@[simp] theorem fpc_setPc (s : State) (a : Word) :
    (s.setPc a).fpc = s.fpc := rfl

@[simp] theorem faddr_setPc (s : State) (a : Word) :
    (s.setPc a).faddr = s.faddr := rfl

@[simp] theorem keys_setPc (s : State) (a : Word) :
    (s.setPc a).keys = s.keys := rfl

@[simp] theorem beep_setPc (s : State) (a : Word) :
    (s.setPc a).beep = s.beep := rfl

@[simp] theorem reg_setPc (s : State) (a : Word) (q : RegIdx) :
    (s.setPc a).reg q = s.reg q := rfl

/-! ### fallThrough -/

@[simp] theorem v_fallThrough (s : State) :
    s.fallThrough.v = s.v := rfl

@[simp] theorem iReg_fallThrough (s : State) :
    s.fallThrough.iReg = s.iReg := rfl

@[simp] theorem pc_fallThrough (s : State) :
    s.fallThrough.pc = s.pc + 2 := rfl

@[simp] theorem sp_fallThrough (s : State) :
    s.fallThrough.sp = s.sp := rfl

@[simp] theorem stack_fallThrough (s : State) :
    s.fallThrough.stack = s.stack := rfl

@[simp] theorem mem_fallThrough (s : State) :
    s.fallThrough.mem = s.mem := rfl

@[simp] theorem fb_fallThrough (s : State) :
    s.fallThrough.fb = s.fb := rfl

@[simp] theorem dt_fallThrough (s : State) :
    s.fallThrough.dt = s.dt := rfl

@[simp] theorem st_fallThrough (s : State) :
    s.fallThrough.st = s.st := rfl

@[simp] theorem rng_fallThrough (s : State) :
    s.fallThrough.rng = s.rng := rfl

@[simp] theorem mode_fallThrough (s : State) :
    s.fallThrough.mode = s.mode := rfl

@[simp] theorem fcause_fallThrough (s : State) :
    s.fallThrough.fcause = s.fcause := rfl

@[simp] theorem fopcode_fallThrough (s : State) :
    s.fallThrough.fopcode = s.fopcode := rfl

@[simp] theorem fpc_fallThrough (s : State) :
    s.fallThrough.fpc = s.fpc := rfl

@[simp] theorem faddr_fallThrough (s : State) :
    s.fallThrough.faddr = s.faddr := rfl

@[simp] theorem keys_fallThrough (s : State) :
    s.fallThrough.keys = s.keys := rfl

@[simp] theorem beep_fallThrough (s : State) :
    s.fallThrough.beep = s.beep := rfl

@[simp] theorem reg_fallThrough (s : State) (q : RegIdx) :
    s.fallThrough.reg q = s.reg q := rfl

/-! ### skipNext -/

@[simp] theorem v_skipNext (s : State) :
    s.skipNext.v = s.v := rfl

@[simp] theorem iReg_skipNext (s : State) :
    s.skipNext.iReg = s.iReg := rfl

@[simp] theorem pc_skipNext (s : State) :
    s.skipNext.pc = s.pc + 4 := rfl

@[simp] theorem sp_skipNext (s : State) :
    s.skipNext.sp = s.sp := rfl

@[simp] theorem stack_skipNext (s : State) :
    s.skipNext.stack = s.stack := rfl

@[simp] theorem mem_skipNext (s : State) :
    s.skipNext.mem = s.mem := rfl

@[simp] theorem fb_skipNext (s : State) :
    s.skipNext.fb = s.fb := rfl

@[simp] theorem dt_skipNext (s : State) :
    s.skipNext.dt = s.dt := rfl

@[simp] theorem st_skipNext (s : State) :
    s.skipNext.st = s.st := rfl

@[simp] theorem rng_skipNext (s : State) :
    s.skipNext.rng = s.rng := rfl

@[simp] theorem mode_skipNext (s : State) :
    s.skipNext.mode = s.mode := rfl

@[simp] theorem fcause_skipNext (s : State) :
    s.skipNext.fcause = s.fcause := rfl

@[simp] theorem fopcode_skipNext (s : State) :
    s.skipNext.fopcode = s.fopcode := rfl

@[simp] theorem fpc_skipNext (s : State) :
    s.skipNext.fpc = s.fpc := rfl

@[simp] theorem faddr_skipNext (s : State) :
    s.skipNext.faddr = s.faddr := rfl

@[simp] theorem keys_skipNext (s : State) :
    s.skipNext.keys = s.keys := rfl

@[simp] theorem beep_skipNext (s : State) :
    s.skipNext.beep = s.beep := rfl

@[simp] theorem reg_skipNext (s : State) (q : RegIdx) :
    s.skipNext.reg q = s.reg q := rfl

/-! ### setMem -/

@[simp] theorem v_setMem (s : State) (m : Memory) :
    (s.setMem m).v = s.v := rfl

@[simp] theorem iReg_setMem (s : State) (m : Memory) :
    (s.setMem m).iReg = s.iReg := rfl

@[simp] theorem pc_setMem (s : State) (m : Memory) :
    (s.setMem m).pc = s.pc := rfl

@[simp] theorem sp_setMem (s : State) (m : Memory) :
    (s.setMem m).sp = s.sp := rfl

@[simp] theorem stack_setMem (s : State) (m : Memory) :
    (s.setMem m).stack = s.stack := rfl

@[simp] theorem mem_setMem (s : State) (m : Memory) :
    (s.setMem m).mem = m := rfl

@[simp] theorem fb_setMem (s : State) (m : Memory) :
    (s.setMem m).fb = s.fb := rfl

@[simp] theorem dt_setMem (s : State) (m : Memory) :
    (s.setMem m).dt = s.dt := rfl

@[simp] theorem st_setMem (s : State) (m : Memory) :
    (s.setMem m).st = s.st := rfl

@[simp] theorem rng_setMem (s : State) (m : Memory) :
    (s.setMem m).rng = s.rng := rfl

@[simp] theorem mode_setMem (s : State) (m : Memory) :
    (s.setMem m).mode = s.mode := rfl

@[simp] theorem fcause_setMem (s : State) (m : Memory) :
    (s.setMem m).fcause = s.fcause := rfl

@[simp] theorem fopcode_setMem (s : State) (m : Memory) :
    (s.setMem m).fopcode = s.fopcode := rfl

@[simp] theorem fpc_setMem (s : State) (m : Memory) :
    (s.setMem m).fpc = s.fpc := rfl

@[simp] theorem faddr_setMem (s : State) (m : Memory) :
    (s.setMem m).faddr = s.faddr := rfl

@[simp] theorem keys_setMem (s : State) (m : Memory) :
    (s.setMem m).keys = s.keys := rfl

@[simp] theorem beep_setMem (s : State) (m : Memory) :
    (s.setMem m).beep = s.beep := rfl

@[simp] theorem reg_setMem (s : State) (m : Memory) (q : RegIdx) :
    (s.setMem m).reg q = s.reg q := rfl

/-! ### setFb -/

@[simp] theorem v_setFb (s : State) (f : Framebuffer) :
    (s.setFb f).v = s.v := rfl

@[simp] theorem iReg_setFb (s : State) (f : Framebuffer) :
    (s.setFb f).iReg = s.iReg := rfl

@[simp] theorem pc_setFb (s : State) (f : Framebuffer) :
    (s.setFb f).pc = s.pc := rfl

@[simp] theorem sp_setFb (s : State) (f : Framebuffer) :
    (s.setFb f).sp = s.sp := rfl

@[simp] theorem stack_setFb (s : State) (f : Framebuffer) :
    (s.setFb f).stack = s.stack := rfl

@[simp] theorem mem_setFb (s : State) (f : Framebuffer) :
    (s.setFb f).mem = s.mem := rfl

@[simp] theorem fb_setFb (s : State) (f : Framebuffer) :
    (s.setFb f).fb = f := rfl

@[simp] theorem dt_setFb (s : State) (f : Framebuffer) :
    (s.setFb f).dt = s.dt := rfl

@[simp] theorem st_setFb (s : State) (f : Framebuffer) :
    (s.setFb f).st = s.st := rfl

@[simp] theorem rng_setFb (s : State) (f : Framebuffer) :
    (s.setFb f).rng = s.rng := rfl

@[simp] theorem mode_setFb (s : State) (f : Framebuffer) :
    (s.setFb f).mode = s.mode := rfl

@[simp] theorem fcause_setFb (s : State) (f : Framebuffer) :
    (s.setFb f).fcause = s.fcause := rfl

@[simp] theorem fopcode_setFb (s : State) (f : Framebuffer) :
    (s.setFb f).fopcode = s.fopcode := rfl

@[simp] theorem fpc_setFb (s : State) (f : Framebuffer) :
    (s.setFb f).fpc = s.fpc := rfl

@[simp] theorem faddr_setFb (s : State) (f : Framebuffer) :
    (s.setFb f).faddr = s.faddr := rfl

@[simp] theorem keys_setFb (s : State) (f : Framebuffer) :
    (s.setFb f).keys = s.keys := rfl

@[simp] theorem beep_setFb (s : State) (f : Framebuffer) :
    (s.setFb f).beep = s.beep := rfl

@[simp] theorem reg_setFb (s : State) (f : Framebuffer) (q : RegIdx) :
    (s.setFb f).reg q = s.reg q := rfl

/-! ### setDt -/

@[simp] theorem v_setDt (s : State) (b : Byte) :
    (s.setDt b).v = s.v := rfl

@[simp] theorem iReg_setDt (s : State) (b : Byte) :
    (s.setDt b).iReg = s.iReg := rfl

@[simp] theorem pc_setDt (s : State) (b : Byte) :
    (s.setDt b).pc = s.pc := rfl

@[simp] theorem sp_setDt (s : State) (b : Byte) :
    (s.setDt b).sp = s.sp := rfl

@[simp] theorem stack_setDt (s : State) (b : Byte) :
    (s.setDt b).stack = s.stack := rfl

@[simp] theorem mem_setDt (s : State) (b : Byte) :
    (s.setDt b).mem = s.mem := rfl

@[simp] theorem fb_setDt (s : State) (b : Byte) :
    (s.setDt b).fb = s.fb := rfl

@[simp] theorem dt_setDt (s : State) (b : Byte) :
    (s.setDt b).dt = b := rfl

@[simp] theorem st_setDt (s : State) (b : Byte) :
    (s.setDt b).st = s.st := rfl

@[simp] theorem rng_setDt (s : State) (b : Byte) :
    (s.setDt b).rng = s.rng := rfl

@[simp] theorem mode_setDt (s : State) (b : Byte) :
    (s.setDt b).mode = s.mode := rfl

@[simp] theorem fcause_setDt (s : State) (b : Byte) :
    (s.setDt b).fcause = s.fcause := rfl

@[simp] theorem fopcode_setDt (s : State) (b : Byte) :
    (s.setDt b).fopcode = s.fopcode := rfl

@[simp] theorem fpc_setDt (s : State) (b : Byte) :
    (s.setDt b).fpc = s.fpc := rfl

@[simp] theorem faddr_setDt (s : State) (b : Byte) :
    (s.setDt b).faddr = s.faddr := rfl

@[simp] theorem keys_setDt (s : State) (b : Byte) :
    (s.setDt b).keys = s.keys := rfl

@[simp] theorem beep_setDt (s : State) (b : Byte) :
    (s.setDt b).beep = s.beep := rfl

@[simp] theorem reg_setDt (s : State) (b : Byte) (q : RegIdx) :
    (s.setDt b).reg q = s.reg q := rfl

/-! ### setRng -/

@[simp] theorem v_setRng (s : State) (g : RandomSource) :
    (s.setRng g).v = s.v := rfl

@[simp] theorem iReg_setRng (s : State) (g : RandomSource) :
    (s.setRng g).iReg = s.iReg := rfl

@[simp] theorem pc_setRng (s : State) (g : RandomSource) :
    (s.setRng g).pc = s.pc := rfl

@[simp] theorem sp_setRng (s : State) (g : RandomSource) :
    (s.setRng g).sp = s.sp := rfl

@[simp] theorem stack_setRng (s : State) (g : RandomSource) :
    (s.setRng g).stack = s.stack := rfl

@[simp] theorem mem_setRng (s : State) (g : RandomSource) :
    (s.setRng g).mem = s.mem := rfl

@[simp] theorem fb_setRng (s : State) (g : RandomSource) :
    (s.setRng g).fb = s.fb := rfl

@[simp] theorem dt_setRng (s : State) (g : RandomSource) :
    (s.setRng g).dt = s.dt := rfl

@[simp] theorem st_setRng (s : State) (g : RandomSource) :
    (s.setRng g).st = s.st := rfl

@[simp] theorem rng_setRng (s : State) (g : RandomSource) :
    (s.setRng g).rng = g := rfl

@[simp] theorem mode_setRng (s : State) (g : RandomSource) :
    (s.setRng g).mode = s.mode := rfl

@[simp] theorem fcause_setRng (s : State) (g : RandomSource) :
    (s.setRng g).fcause = s.fcause := rfl

@[simp] theorem fopcode_setRng (s : State) (g : RandomSource) :
    (s.setRng g).fopcode = s.fopcode := rfl

@[simp] theorem fpc_setRng (s : State) (g : RandomSource) :
    (s.setRng g).fpc = s.fpc := rfl

@[simp] theorem faddr_setRng (s : State) (g : RandomSource) :
    (s.setRng g).faddr = s.faddr := rfl

@[simp] theorem keys_setRng (s : State) (g : RandomSource) :
    (s.setRng g).keys = s.keys := rfl

@[simp] theorem beep_setRng (s : State) (g : RandomSource) :
    (s.setRng g).beep = s.beep := rfl

@[simp] theorem reg_setRng (s : State) (g : RandomSource) (q : RegIdx) :
    (s.setRng g).reg q = s.reg q := rfl

/-! ### setKeys -/

@[simp] theorem v_setKeys (s : State) (k : Word) :
    (s.setKeys k).v = s.v := rfl

@[simp] theorem iReg_setKeys (s : State) (k : Word) :
    (s.setKeys k).iReg = s.iReg := rfl

@[simp] theorem pc_setKeys (s : State) (k : Word) :
    (s.setKeys k).pc = s.pc := rfl

@[simp] theorem sp_setKeys (s : State) (k : Word) :
    (s.setKeys k).sp = s.sp := rfl

@[simp] theorem stack_setKeys (s : State) (k : Word) :
    (s.setKeys k).stack = s.stack := rfl

@[simp] theorem mem_setKeys (s : State) (k : Word) :
    (s.setKeys k).mem = s.mem := rfl

@[simp] theorem fb_setKeys (s : State) (k : Word) :
    (s.setKeys k).fb = s.fb := rfl

@[simp] theorem dt_setKeys (s : State) (k : Word) :
    (s.setKeys k).dt = s.dt := rfl

@[simp] theorem st_setKeys (s : State) (k : Word) :
    (s.setKeys k).st = s.st := rfl

@[simp] theorem rng_setKeys (s : State) (k : Word) :
    (s.setKeys k).rng = s.rng := rfl

@[simp] theorem mode_setKeys (s : State) (k : Word) :
    (s.setKeys k).mode = s.mode := rfl

@[simp] theorem fcause_setKeys (s : State) (k : Word) :
    (s.setKeys k).fcause = s.fcause := rfl

@[simp] theorem fopcode_setKeys (s : State) (k : Word) :
    (s.setKeys k).fopcode = s.fopcode := rfl

@[simp] theorem fpc_setKeys (s : State) (k : Word) :
    (s.setKeys k).fpc = s.fpc := rfl

@[simp] theorem faddr_setKeys (s : State) (k : Word) :
    (s.setKeys k).faddr = s.faddr := rfl

@[simp] theorem keys_setKeys (s : State) (k : Word) :
    (s.setKeys k).keys = k := rfl

@[simp] theorem beep_setKeys (s : State) (k : Word) :
    (s.setKeys k).beep = s.beep := rfl

@[simp] theorem reg_setKeys (s : State) (k : Word) (q : RegIdx) :
    (s.setKeys k).reg q = s.reg q := rfl

/-! ### setBeep -/

@[simp] theorem v_setBeep (s : State) (b : Bool) :
    (s.setBeep b).v = s.v := rfl

@[simp] theorem iReg_setBeep (s : State) (b : Bool) :
    (s.setBeep b).iReg = s.iReg := rfl

@[simp] theorem pc_setBeep (s : State) (b : Bool) :
    (s.setBeep b).pc = s.pc := rfl

@[simp] theorem sp_setBeep (s : State) (b : Bool) :
    (s.setBeep b).sp = s.sp := rfl

@[simp] theorem stack_setBeep (s : State) (b : Bool) :
    (s.setBeep b).stack = s.stack := rfl

@[simp] theorem mem_setBeep (s : State) (b : Bool) :
    (s.setBeep b).mem = s.mem := rfl

@[simp] theorem fb_setBeep (s : State) (b : Bool) :
    (s.setBeep b).fb = s.fb := rfl

@[simp] theorem dt_setBeep (s : State) (b : Bool) :
    (s.setBeep b).dt = s.dt := rfl

@[simp] theorem st_setBeep (s : State) (b : Bool) :
    (s.setBeep b).st = s.st := rfl

@[simp] theorem rng_setBeep (s : State) (b : Bool) :
    (s.setBeep b).rng = s.rng := rfl

@[simp] theorem mode_setBeep (s : State) (b : Bool) :
    (s.setBeep b).mode = s.mode := rfl

@[simp] theorem fcause_setBeep (s : State) (b : Bool) :
    (s.setBeep b).fcause = s.fcause := rfl

@[simp] theorem fopcode_setBeep (s : State) (b : Bool) :
    (s.setBeep b).fopcode = s.fopcode := rfl

@[simp] theorem fpc_setBeep (s : State) (b : Bool) :
    (s.setBeep b).fpc = s.fpc := rfl

@[simp] theorem faddr_setBeep (s : State) (b : Bool) :
    (s.setBeep b).faddr = s.faddr := rfl

@[simp] theorem keys_setBeep (s : State) (b : Bool) :
    (s.setBeep b).keys = s.keys := rfl

@[simp] theorem beep_setBeep (s : State) (b : Bool) :
    (s.setBeep b).beep = b := rfl

@[simp] theorem reg_setBeep (s : State) (b : Bool) (q : RegIdx) :
    (s.setBeep b).reg q = s.reg q := rfl

/-! ### tick -/

@[simp] theorem v_tick (s : State) :
    (tick s).v = s.v := rfl

@[simp] theorem iReg_tick (s : State) :
    (tick s).iReg = s.iReg := rfl

@[simp] theorem pc_tick (s : State) :
    (tick s).pc = s.pc := rfl

@[simp] theorem sp_tick (s : State) :
    (tick s).sp = s.sp := rfl

@[simp] theorem stack_tick (s : State) :
    (tick s).stack = s.stack := rfl

@[simp] theorem mem_tick (s : State) :
    (tick s).mem = s.mem := rfl

@[simp] theorem fb_tick (s : State) :
    (tick s).fb = s.fb := rfl

@[simp] theorem dt_tick (s : State) :
    (tick s).dt = countDown s.dt := rfl

@[simp] theorem st_tick (s : State) :
    (tick s).st = countDown s.st := rfl

@[simp] theorem rng_tick (s : State) :
    (tick s).rng = s.rng := rfl

@[simp] theorem mode_tick (s : State) :
    (tick s).mode = s.mode := rfl

@[simp] theorem fcause_tick (s : State) :
    (tick s).fcause = s.fcause := rfl

@[simp] theorem fopcode_tick (s : State) :
    (tick s).fopcode = s.fopcode := rfl

@[simp] theorem fpc_tick (s : State) :
    (tick s).fpc = s.fpc := rfl

@[simp] theorem faddr_tick (s : State) :
    (tick s).faddr = s.faddr := rfl

@[simp] theorem keys_tick (s : State) :
    (tick s).keys = s.keys := rfl

@[simp] theorem beep_tick (s : State) :
    (tick s).beep = decide (s.st = 1) := rfl

@[simp] theorem reg_tick (s : State) (q : RegIdx) :
    (tick s).reg q = s.reg q := rfl

/-! ### takeFault -/

@[simp] theorem v_takeFault (c : FaultCause) (w : Word) (a : Nat) (s : State) :
    (takeFault c w a s).v = s.v := rfl

@[simp] theorem iReg_takeFault (c : FaultCause) (w : Word) (a : Nat) (s : State) :
    (takeFault c w a s).iReg = s.iReg := rfl

@[simp] theorem pc_takeFault (c : FaultCause) (w : Word) (a : Nat) (s : State) :
    (takeFault c w a s).pc = s.pc := rfl

@[simp] theorem sp_takeFault (c : FaultCause) (w : Word) (a : Nat) (s : State) :
    (takeFault c w a s).sp = s.sp := rfl

@[simp] theorem stack_takeFault (c : FaultCause) (w : Word) (a : Nat) (s : State) :
    (takeFault c w a s).stack = s.stack := rfl

@[simp] theorem mem_takeFault (c : FaultCause) (w : Word) (a : Nat) (s : State) :
    (takeFault c w a s).mem = s.mem := rfl

@[simp] theorem fb_takeFault (c : FaultCause) (w : Word) (a : Nat) (s : State) :
    (takeFault c w a s).fb = s.fb := rfl

@[simp] theorem dt_takeFault (c : FaultCause) (w : Word) (a : Nat) (s : State) :
    (takeFault c w a s).dt = s.dt := rfl

@[simp] theorem st_takeFault (c : FaultCause) (w : Word) (a : Nat) (s : State) :
    (takeFault c w a s).st = s.st := rfl

@[simp] theorem rng_takeFault (c : FaultCause) (w : Word) (a : Nat) (s : State) :
    (takeFault c w a s).rng = s.rng := rfl

@[simp] theorem mode_takeFault (c : FaultCause) (w : Word) (a : Nat) (s : State) :
    (takeFault c w a s).mode = .halt := rfl

@[simp] theorem fcause_takeFault (c : FaultCause) (w : Word) (a : Nat) (s : State) :
    (takeFault c w a s).fcause = c.code := rfl

@[simp] theorem fopcode_takeFault (c : FaultCause) (w : Word) (a : Nat) (s : State) :
    (takeFault c w a s).fopcode = w := rfl

@[simp] theorem fpc_takeFault (c : FaultCause) (w : Word) (a : Nat) (s : State) :
    (takeFault c w a s).fpc = s.pc := rfl

@[simp] theorem faddr_takeFault (c : FaultCause) (w : Word) (a : Nat) (s : State) :
    (takeFault c w a s).faddr = BitVec.ofNat 17 a := rfl

@[simp] theorem keys_takeFault (c : FaultCause) (w : Word) (a : Nat) (s : State) :
    (takeFault c w a s).keys = s.keys := rfl

@[simp] theorem beep_takeFault (c : FaultCause) (w : Word) (a : Nat) (s : State) :
    (takeFault c w a s).beep = false := rfl

@[simp] theorem reg_takeFault (c : FaultCause) (w : Word) (a : Nat) (s : State) (q : RegIdx) :
    (takeFault c w a s).reg q = s.reg q := rfl

/-! ### Registers -/

/-- A register reads back what was written to it, and every other one what it held (R20). -/
@[simp] theorem reg_setReg (s : State) (r : RegIdx) (b : Byte) (q : RegIdx) :
    (s.setReg r b).reg q = if q = r then b else s.reg q := by
  simp only [State.reg, State.setReg, Vector.getElem_set, Fin.ext_iff, eq_comm]

/-- After a result and its flag, VF is the flag and V[x] the result unless x is VF (D9). -/
@[simp] theorem reg_setRegFlag (s : State) (x : RegIdx) (b f : Byte) (q : RegIdx) :
    (s.setRegFlag x b f).reg q = if q = vf then f else if q = x then b else s.reg q := by
  simp [State.setRegFlag]

/-! ### setRegFlag, skipIf -/

@[simp] theorem iReg_setRegFlag (s : State) (x : RegIdx) (b f : Byte) :
    (s.setRegFlag x b f).iReg = s.iReg := rfl

@[simp] theorem pc_setRegFlag (s : State) (x : RegIdx) (b f : Byte) :
    (s.setRegFlag x b f).pc = s.pc := rfl

@[simp] theorem sp_setRegFlag (s : State) (x : RegIdx) (b f : Byte) :
    (s.setRegFlag x b f).sp = s.sp := rfl

@[simp] theorem stack_setRegFlag (s : State) (x : RegIdx) (b f : Byte) :
    (s.setRegFlag x b f).stack = s.stack := rfl

@[simp] theorem mem_setRegFlag (s : State) (x : RegIdx) (b f : Byte) :
    (s.setRegFlag x b f).mem = s.mem := rfl

@[simp] theorem fb_setRegFlag (s : State) (x : RegIdx) (b f : Byte) :
    (s.setRegFlag x b f).fb = s.fb := rfl

@[simp] theorem dt_setRegFlag (s : State) (x : RegIdx) (b f : Byte) :
    (s.setRegFlag x b f).dt = s.dt := rfl

@[simp] theorem st_setRegFlag (s : State) (x : RegIdx) (b f : Byte) :
    (s.setRegFlag x b f).st = s.st := rfl

@[simp] theorem rng_setRegFlag (s : State) (x : RegIdx) (b f : Byte) :
    (s.setRegFlag x b f).rng = s.rng := rfl

@[simp] theorem mode_setRegFlag (s : State) (x : RegIdx) (b f : Byte) :
    (s.setRegFlag x b f).mode = s.mode := rfl

@[simp] theorem fcause_setRegFlag (s : State) (x : RegIdx) (b f : Byte) :
    (s.setRegFlag x b f).fcause = s.fcause := rfl

@[simp] theorem fopcode_setRegFlag (s : State) (x : RegIdx) (b f : Byte) :
    (s.setRegFlag x b f).fopcode = s.fopcode := rfl

@[simp] theorem fpc_setRegFlag (s : State) (x : RegIdx) (b f : Byte) :
    (s.setRegFlag x b f).fpc = s.fpc := rfl

@[simp] theorem faddr_setRegFlag (s : State) (x : RegIdx) (b f : Byte) :
    (s.setRegFlag x b f).faddr = s.faddr := rfl

@[simp] theorem keys_setRegFlag (s : State) (x : RegIdx) (b f : Byte) :
    (s.setRegFlag x b f).keys = s.keys := rfl

@[simp] theorem beep_setRegFlag (s : State) (x : RegIdx) (b f : Byte) :
    (s.setRegFlag x b f).beep = s.beep := rfl

@[simp] theorem v_skipIf (s : State) (c : Bool) :
    (s.skipIf c).v = s.v := by
  cases c <;> rfl

@[simp] theorem iReg_skipIf (s : State) (c : Bool) :
    (s.skipIf c).iReg = s.iReg := by
  cases c <;> rfl

@[simp] theorem pc_skipIf (s : State) (c : Bool) :
    (s.skipIf c).pc = if c then s.pc + 4 else s.pc + 2 := by
  cases c <;> rfl

@[simp] theorem sp_skipIf (s : State) (c : Bool) :
    (s.skipIf c).sp = s.sp := by
  cases c <;> rfl

@[simp] theorem stack_skipIf (s : State) (c : Bool) :
    (s.skipIf c).stack = s.stack := by
  cases c <;> rfl

@[simp] theorem mem_skipIf (s : State) (c : Bool) :
    (s.skipIf c).mem = s.mem := by
  cases c <;> rfl

@[simp] theorem fb_skipIf (s : State) (c : Bool) :
    (s.skipIf c).fb = s.fb := by
  cases c <;> rfl

@[simp] theorem dt_skipIf (s : State) (c : Bool) :
    (s.skipIf c).dt = s.dt := by
  cases c <;> rfl

@[simp] theorem st_skipIf (s : State) (c : Bool) :
    (s.skipIf c).st = s.st := by
  cases c <;> rfl

@[simp] theorem rng_skipIf (s : State) (c : Bool) :
    (s.skipIf c).rng = s.rng := by
  cases c <;> rfl

@[simp] theorem mode_skipIf (s : State) (c : Bool) :
    (s.skipIf c).mode = s.mode := by
  cases c <;> rfl

@[simp] theorem fcause_skipIf (s : State) (c : Bool) :
    (s.skipIf c).fcause = s.fcause := by
  cases c <;> rfl

@[simp] theorem fopcode_skipIf (s : State) (c : Bool) :
    (s.skipIf c).fopcode = s.fopcode := by
  cases c <;> rfl

@[simp] theorem fpc_skipIf (s : State) (c : Bool) :
    (s.skipIf c).fpc = s.fpc := by
  cases c <;> rfl

@[simp] theorem faddr_skipIf (s : State) (c : Bool) :
    (s.skipIf c).faddr = s.faddr := by
  cases c <;> rfl

@[simp] theorem keys_skipIf (s : State) (c : Bool) :
    (s.skipIf c).keys = s.keys := by
  cases c <;> rfl

@[simp] theorem beep_skipIf (s : State) (c : Bool) :
    (s.skipIf c).beep = s.beep := by
  cases c <;> rfl

@[simp] theorem reg_skipIf (s : State) (c : Bool) (q : RegIdx) :
    (s.skipIf c).reg q = s.reg q := by
  cases c <;> rfl

/-- Two states with equal fields are equal. -/
theorem State.eq_of_fields {s t : State} (hv : s.v = t.v) (hi : s.iReg = t.iReg) (hp : s.pc = t.pc)
    (hsp : s.sp = t.sp) (hst : s.stack = t.stack) (hm : s.mem = t.mem) (hf : s.fb = t.fb)
    (hd : s.dt = t.dt) (hs : s.st = t.st) (hr : s.rng = t.rng) (hmo : s.mode = t.mode)
    (hc : s.fcause = t.fcause) (ho : s.fopcode = t.fopcode) (hfp : s.fpc = t.fpc)
    (hfa : s.faddr = t.faddr) (hk : s.keys = t.keys) (hb : s.beep = t.beep) : s = t := by
  cases s; cases t; simp_all

end Sys2Proof.Machine
end

