-- ==== Sys2Proof/Laws/Ops.lean ====
section
/-!
SUPPORT. Everything a shared operation can answer, said once: the call stack, the keypad, stores at I,
the fetch.
-/

namespace Sys2Proof.Machine

open Sys2Proof

/-- `Push` succeeds exactly below depth 16 (spec/41_control_flow.md R140). -/
theorem push_eq_some {a : Word} {s t : State} :
    push a s = some t ↔ ∃ h : s.sp.val < 16,
      t = { s with stack := s.stack.set s.sp.val a h, sp := ⟨s.sp.val + 1, by omega⟩ } := by
  unfold push
  split
  · next h => simp [h, eq_comm]
  · next h => simp [h]

/-- `Push` fails exactly at depth 16. -/
theorem push_eq_none {a : Word} {s : State} : push a s = none ↔ s.sp.val = 16 := by
  unfold push
  have := s.sp.isLt
  split
  · simp only [reduceCtorEq, false_iff]; omega
  · simp only [true_iff]; omega

/-- `Pop` succeeds exactly above depth 0 (R141). -/
theorem pop_eq_some {s t : State} {a : Word} :
    pop s = some (a, t) ↔ ∃ h : 0 < s.sp.val,
      a = s.stack[s.sp.val - 1] ∧ t = { s with sp := ⟨s.sp.val - 1, by omega⟩ } := by
  unfold pop
  split
  · next h => simp [h, eq_comm]
  · next h => simp [h]

/-- `Pop` fails exactly at depth 0. -/
theorem pop_eq_none {s : State} : pop s = none ↔ s.sp.val = 0 := by
  unfold pop
  split
  · simp only [reduceCtorEq, false_iff]; omega
  · simp only [true_iff]; omega

/-- `Key(i)` is defined exactly for indices 0 to 15 (spec/45_keypad_timers.md R234). -/
theorem keyState_eq (s : State) (i : Byte) :
    keyState s i = if i.toNat ≤ 15 then some (s.keys.getLsbD i.toNat) else none := by
  unfold keyState
  split
  · rw [if_neg (by omega)]
  · rw [if_pos (by omega)]

/-- A store at I either completes, or faults and writes nothing (spec/20_memory.md R65). -/
theorem storeAtI_eq (i : Instr) (bytes : List Byte) (s : State) :
    storeAtI i bytes s =
      if bytes.length = 0 ∨ baseAddr s + bytes.length ≤ 4096 then
        .next (s.setMem (putBytes s.mem (baseAddr s) bytes)).fallThrough
      else raise .memoryOutOfBounds i (max (baseAddr s) 4096) s := by
  unfold storeAtI
  rw [writeBytes_eq]
  split
  · next h => split at h <;> simp_all
  · next h => split at h <;> simp_all

/-- Everything a fetch can answer (spec/40_step_cycle.md R122). -/
theorem fetch_eq (s : State) :
    fetch s =
      if s.pc.toNat < 4095 then
        .ok (joinBytes (s.mem.byteAt s.pc.toNat) (s.mem.byteAt (s.pc.toNat + 1)))
      else .error (max s.pc.toNat 4096) := by
  unfold fetch
  rw [readBytes_eq]
  split
  · next h =>
    split at h
    · cases h
    · rw [if_neg (by omega)]; simpa using h.symm
  · next bytes h =>
    split at h
    · rw [if_pos (by omega)]
      obtain rfl : bytesFrom s.mem s.pc.toNat 2 = bytes := by simpa using h
      simp [bytesFrom, List.range_succ]
    · cases h

theorem length_bcdDigits (v : Byte) : (bcdDigits v).length = 3 := rfl

@[simp] theorem length_regRange (s : State) (x : RegIdx) : (regRange s x).length = x.val + 1 := by
  simp [regRange]

/-- The state with a run of registers loaded has the rest of the state unchanged. -/
theorem loadRegs_eq (k : Nat) (bytes : List Byte) (s : State) :
    loadRegs k bytes s = { s with v := (loadRegs k bytes s).v } := by
  induction bytes generalizing k s with
  | nil => rfl
  | cons b rest ih =>
    rw [loadRegs]
    conv_lhs => rw [ih]
    rfl

/-- Register by register, what a run of loads leaves (spec/43_index_memory.md R195). -/
theorem reg_loadRegs (bytes : List Byte) (k : Nat) (s : State) (r : RegIdx)
    (h : k + bytes.length ≤ 16) :
    (loadRegs k bytes s).reg r =
      if h : k ≤ r.val ∧ r.val < k + bytes.length then bytes[r.val - k]'(by omega)
      else s.reg r := by
  induction bytes generalizing k s with
  | nil => rw [loadRegs, dif_neg (by simp)]
  | cons b rest ih =>
    simp only [List.length_cons] at h
    rw [loadRegs, ih (k + 1) _ (by omega)]
    simp only [reg_setReg, Fin.ext_iff, Fin.ofNat]
    rcases Nat.lt_trichotomy r.val k with hr | hr | hr
    · rw [dif_neg (by omega), if_neg (by omega), dif_neg (by omega)]
    · rw [dif_neg (by omega), if_pos (by omega), dif_pos (by simp; omega)]
      simp [hr]
    · by_cases hin : r.val < k + 1 + rest.length
      · rw [dif_pos (by omega), dif_pos (by simp; omega)]
        have : r.val - k = (r.val - (k + 1)) + 1 := by omega
        simp [this]
      · rw [dif_neg (by omega), if_neg (by omega), dif_neg (by simp; omega)]

end Sys2Proof.Machine
end

