-- ==== Sys2Proof/Laws/PerInstr.lean ====
section
/-!
SUPPORT. Facts about every instruction as syntax, one lemma per constructor: every instruction is
well-formed (spec/30_encoding.md R93), and the assembler reads its line back (R99).
-/

namespace Sys2Proof.Laws.WellFormed

open Sys2Proof

/-- The line that names the instruction is well-formed. -/
def Statement (i : Instr) : Prop := i.wf = true

@[simp] theorem fits_reg (x : RegIdx) : (AsmOperand.reg x.val).fits .reg = true := by
  simp [AsmOperand.fits, x.isLt]

@[simp] theorem fits_kk (kk : Byte) : (AsmOperand.num kk.toNat).fits .kk = true := by
  simpa [AsmOperand.fits] using kk.isLt

@[simp] theorem fits_addr (a : Addr12) : (AsmOperand.num a.toNat).fits .addr = true := by
  simpa [AsmOperand.fits] using a.isLt

@[simp] theorem fits_n (n : BitVec 4) : (AsmOperand.num n.toNat).fits .n = true := by
  simpa [AsmOperand.fits] using n.isLt

@[simp] theorem fits_index : AsmOperand.index.fits .index = true := rfl
@[simp] theorem fits_delay : AsmOperand.delay.fits .delay = true := rfl
@[simp] theorem fits_glyph : AsmOperand.glyph.fits .glyph = true := rfl
@[simp] theorem fits_bcd : AsmOperand.bcd.fits .bcd = true := rfl
@[simp] theorem fits_atIndex : AsmOperand.atIndex.fits .atIndex = true := rfl

/-- A line is well-formed if its operands fit one of its mnemonic's forms. -/
theorem of_fits {l : AsmLine} {f : List OperandKind} (hf : f ∈ l.mnemonic.forms)
    (h : operandsFit l.operands f = true) : l.wf = true :=
  List.any_eq_true.2 ⟨f, hf, h⟩

/-- One operand fits a form of one place. -/
theorem fit1 {o : AsmOperand} {k : OperandKind} (h : o.fits k = true) :
    operandsFit [o] [k] = true := by simp [operandsFit, h]

/-- Two operands fit a form of two places. -/
theorem fit2 {o o' : AsmOperand} {k k' : OperandKind} (h : o.fits k = true)
    (h' : o'.fits k' = true) : operandsFit [o, o'] [k, k'] = true := by simp [operandsFit, h, h']

/-- Three operands fit a form of three places. -/
theorem fit3 {o o' q : AsmOperand} {k k' l : OperandKind} (h : o.fits k = true)
    (h' : o'.fits k' = true) (h'' : q.fits l = true) :
    operandsFit [o, o', q] [k, k', l] = true := by simp [operandsFit, h, h', h'']

theorem cls : Statement (.cls) :=
  of_fits (f := []) (.head _) rfl

theorem ret : Statement (.ret) :=
  of_fits (f := []) (.head _) rfl

theorem jpAddr (a : Addr12) : Statement (.jpAddr a) :=
  of_fits (f := [.addr]) (.head _) (fit1 (fits_addr a))

theorem callAddr (a : Addr12) : Statement (.callAddr a) :=
  of_fits (f := [.addr]) (.head _) (fit1 (fits_addr a))

theorem seVxKk (x : RegIdx) (kk : Byte) : Statement (.seVxKk x kk) :=
  of_fits (f := [.reg, .kk]) (.head _) (fit2 (fits_reg x) (fits_kk kk))

theorem sneVxKk (x : RegIdx) (kk : Byte) : Statement (.sneVxKk x kk) :=
  of_fits (f := [.reg, .kk]) (.head _) (fit2 (fits_reg x) (fits_kk kk))

theorem seVxVy (x y : RegIdx) : Statement (.seVxVy x y) :=
  of_fits (f := [.reg, .reg]) (.tail _ (.head _)) (fit2 (fits_reg x) (fits_reg y))

theorem ldVxKk (x : RegIdx) (kk : Byte) : Statement (.ldVxKk x kk) :=
  of_fits (f := [.reg, .kk]) (.head _) (fit2 (fits_reg x) (fits_kk kk))

theorem addVxKk (x : RegIdx) (kk : Byte) : Statement (.addVxKk x kk) :=
  of_fits (f := [.reg, .kk]) (.head _) (fit2 (fits_reg x) (fits_kk kk))

theorem ldVxVy (x y : RegIdx) : Statement (.ldVxVy x y) :=
  of_fits (f := [.reg, .reg]) (.tail _ (.head _)) (fit2 (fits_reg x) (fits_reg y))

theorem orVxVy (x y : RegIdx) : Statement (.orVxVy x y) :=
  of_fits (f := [.reg, .reg]) (.head _) (fit2 (fits_reg x) (fits_reg y))

theorem andVxVy (x y : RegIdx) : Statement (.andVxVy x y) :=
  of_fits (f := [.reg, .reg]) (.head _) (fit2 (fits_reg x) (fits_reg y))

theorem xorVxVy (x y : RegIdx) : Statement (.xorVxVy x y) :=
  of_fits (f := [.reg, .reg]) (.head _) (fit2 (fits_reg x) (fits_reg y))

theorem addVxVy (x y : RegIdx) : Statement (.addVxVy x y) :=
  of_fits (f := [.reg, .reg]) (.tail _ (.head _)) (fit2 (fits_reg x) (fits_reg y))

theorem shrVxVy (x y : RegIdx) : Statement (.shrVxVy x y) :=
  of_fits (f := [.reg, .reg]) (.head _) (fit2 (fits_reg x) (fits_reg y))

theorem shlVxVy (x y : RegIdx) : Statement (.shlVxVy x y) :=
  of_fits (f := [.reg, .reg]) (.head _) (fit2 (fits_reg x) (fits_reg y))

theorem sneVxVy (x y : RegIdx) : Statement (.sneVxVy x y) :=
  of_fits (f := [.reg, .reg]) (.tail _ (.head _)) (fit2 (fits_reg x) (fits_reg y))

theorem ldIAddr (a : Addr12) : Statement (.ldIAddr a) :=
  of_fits (f := [.index, .addr]) (.tail _ (.tail _ (.head _))) (fit2 rfl (fits_addr a))

theorem rndVxKk (x : RegIdx) (kk : Byte) : Statement (.rndVxKk x kk) :=
  of_fits (f := [.reg, .kk]) (.head _) (fit2 (fits_reg x) (fits_kk kk))

theorem drwVxVyN (x y : RegIdx) (n : BitVec 4) : Statement (.drwVxVyN x y n) :=
  of_fits (f := [.reg, .reg, .n]) (.head _) (fit3 (fits_reg x) (fits_reg y) (fits_n n))

theorem skpVx (x : RegIdx) : Statement (.skpVx x) :=
  of_fits (f := [.reg]) (.head _) (fit1 (fits_reg x))

theorem sknpVx (x : RegIdx) : Statement (.sknpVx x) :=
  of_fits (f := [.reg]) (.head _) (fit1 (fits_reg x))

theorem ldVxDt (x : RegIdx) : Statement (.ldVxDt x) :=
  of_fits (f := [.reg, .delay]) (.tail _ (.tail _ (.tail _ (.head _)))) (fit2 (fits_reg x) rfl)

theorem ldDtVx (x : RegIdx) : Statement (.ldDtVx x) :=
  of_fits (f := [.delay, .reg]) (.tail _ (.tail _ (.tail _ (.tail _ (.head _))))) (fit2 rfl (fits_reg x))

theorem addIVx (x : RegIdx) : Statement (.addIVx x) :=
  of_fits (f := [.index, .reg]) (.tail _ (.tail _ (.head _))) (fit2 rfl (fits_reg x))

theorem ldFVx (x : RegIdx) : Statement (.ldFVx x) :=
  of_fits (f := [.glyph, .reg]) (.tail _ (.tail _ (.tail _ (.tail _ (.tail _ (.head _)))))) (fit2 rfl (fits_reg x))

theorem ldBVx (x : RegIdx) : Statement (.ldBVx x) :=
  of_fits (f := [.bcd, .reg]) (.tail _ (.tail _ (.tail _ (.tail _ (.tail _ (.tail _ (.head _))))))) (fit2 rfl (fits_reg x))

theorem ldMemIVx (x : RegIdx) : Statement (.ldMemIVx x) :=
  of_fits (f := [.atIndex, .reg]) (.tail _ (.tail _ (.tail _ (.tail _ (.tail _ (.tail _ (.tail _ (.head _)))))))) (fit2 rfl (fits_reg x))

theorem ldVxMemI (x : RegIdx) : Statement (.ldVxMemI x) :=
  of_fits (f := [.reg, .atIndex]) (.tail _ (.tail _ (.tail _ (.tail _ (.tail _ (.tail _ (.tail _ (.tail _ (.head _))))))))) (fit2 (fits_reg x) rfl)

end Sys2Proof.Laws.WellFormed

namespace Sys2Proof.Laws.AssemblesBack

open Sys2Proof

/-- The assembler reads the instruction's line back. -/
def Statement (i : Instr) : Prop := assemble i.toAsm = some i

@[simp] theorem asmReg_val (x : RegIdx) : asmReg x.val = some x := by
  simp [asmReg, x.isLt]

@[simp] theorem asmNum_toNat {w : Nat} (b : BitVec w) : asmNum w b.toNat = some b := by
  simp [asmNum, b.isLt]

@[simp] theorem asmX_val (f : RegIdx → Instr) (x : RegIdx) : asmX f x.val = some (f x) := by
  simp [asmX]

@[simp] theorem asmAddr_toNat (f : Addr12 → Instr) (a : Addr12) :
    asmAddr f a.toNat = some (f a) := by simp [asmAddr]

@[simp] theorem asmXKK_toNat (f : RegIdx → Byte → Instr) (x : RegIdx) (kk : Byte) :
    asmXKK f x.val kk.toNat = some (f x kk) := by simp [asmXKK]

@[simp] theorem asmXY_val (f : RegIdx → RegIdx → Instr) (x y : RegIdx) :
    asmXY f x.val y.val = some (f x y) := by simp [asmXY]

theorem cls : Statement .cls := rfl

theorem ret : Statement .ret := rfl

theorem jpAddr (a : Addr12) : Statement (.jpAddr a) := asmAddr_toNat _ a

theorem callAddr (a : Addr12) : Statement (.callAddr a) := asmAddr_toNat _ a

theorem seVxKk (x : RegIdx) (kk : Byte) : Statement (.seVxKk x kk) := asmXKK_toNat _ x kk

theorem sneVxKk (x : RegIdx) (kk : Byte) : Statement (.sneVxKk x kk) := asmXKK_toNat _ x kk

theorem seVxVy (x y : RegIdx) : Statement (.seVxVy x y) := asmXY_val _ x y

theorem ldVxKk (x : RegIdx) (kk : Byte) : Statement (.ldVxKk x kk) := asmXKK_toNat _ x kk

theorem addVxKk (x : RegIdx) (kk : Byte) : Statement (.addVxKk x kk) := asmXKK_toNat _ x kk

theorem ldVxVy (x y : RegIdx) : Statement (.ldVxVy x y) := asmXY_val _ x y

theorem orVxVy (x y : RegIdx) : Statement (.orVxVy x y) := asmXY_val _ x y

theorem andVxVy (x y : RegIdx) : Statement (.andVxVy x y) := asmXY_val _ x y

theorem xorVxVy (x y : RegIdx) : Statement (.xorVxVy x y) := asmXY_val _ x y

theorem addVxVy (x y : RegIdx) : Statement (.addVxVy x y) := asmXY_val _ x y

theorem shrVxVy (x y : RegIdx) : Statement (.shrVxVy x y) := asmXY_val _ x y

theorem shlVxVy (x y : RegIdx) : Statement (.shlVxVy x y) := asmXY_val _ x y

theorem sneVxVy (x y : RegIdx) : Statement (.sneVxVy x y) := asmXY_val _ x y

theorem ldIAddr (a : Addr12) : Statement (.ldIAddr a) := asmAddr_toNat _ a

theorem rndVxKk (x : RegIdx) (kk : Byte) : Statement (.rndVxKk x kk) := asmXKK_toNat _ x kk

theorem drwVxVyN (x y : RegIdx) (n : BitVec 4) : Statement (.drwVxVyN x y n) := by
  simp [Statement, Instr.toAsm, assemble]

theorem skpVx (x : RegIdx) : Statement (.skpVx x) := asmX_val _ x

theorem sknpVx (x : RegIdx) : Statement (.sknpVx x) := asmX_val _ x

theorem ldVxDt (x : RegIdx) : Statement (.ldVxDt x) := asmX_val _ x

theorem ldDtVx (x : RegIdx) : Statement (.ldDtVx x) := asmX_val _ x

theorem addIVx (x : RegIdx) : Statement (.addIVx x) := asmX_val _ x

theorem ldFVx (x : RegIdx) : Statement (.ldFVx x) := asmX_val _ x

theorem ldBVx (x : RegIdx) : Statement (.ldBVx x) := asmX_val _ x

theorem ldMemIVx (x : RegIdx) : Statement (.ldMemIVx x) := asmX_val _ x

theorem ldVxMemI (x : RegIdx) : Statement (.ldVxMemI x) := asmX_val _ x

end Sys2Proof.Laws.AssemblesBack
end

