-- ==== Sys2Proof/Laws/Step.lean ====
section
/-!
SUPPORT. What a step can do, said once.
-/

namespace Sys2Proof.Machine

open Sys2Proof

/-- After execute, a raised fault is left as it is and anything else is ticked (R125). -/
theorem afterExecute_coupled (s : State) :
    afterExecute .coupled s = if s.mode = .halt then s else tick s := by
  unfold afterExecute
  cases h : s.mode <;> simp

/-- A step request in HALT. -/
theorem step_of_halt {s : State} (h : s.mode = .halt) : step s = .next (haltedStep s) := by
  simp [step, h]

/-- A step in RUN is one of three: the fetch faults, the word is illegal, or its instruction runs. -/
theorem step_of_run {s : State} (h : s.mode = .run) :
    (4095 ≤ s.pc.toNat ∧ step s = .next (fetchFault (max s.pc.toNat 4096) s)) ∨
    (s.pc.toNat < 4095 ∧ ∃ w, fetch s = .ok w ∧
      ((∃ e, decode w = .error e ∧ step s = .next (decodeFault w s)) ∨
        ∃ i, decode w = .ok i ∧ step s = finishStep .coupled (exec i s))) := by
  simp only [step, h, runStep, Config.tickMode]
  rw [fetch_eq]
  by_cases hp : s.pc.toNat < 4095
  · refine .inr ⟨hp, ?_⟩
    simp only [if_pos hp]
    refine ⟨_, rfl, ?_⟩
    cases decode (joinBytes (s.mem.byteAt s.pc.toNat) (s.mem.byteAt (s.pc.toNat + 1))) with
    | error e => exact .inl ⟨e, rfl, rfl⟩
    | ok i => exact .inr ⟨i, rfl, rfl⟩
  · exact .inl ⟨by omega, by simp only [if_neg hp]⟩

end Sys2Proof.Machine
end

