-- ==== Sys2Proof/Tests/Slice0.lean ====
section
/-!
SUPPORT. The model's own tests. Expected values are those of spec/95_test_vectors.md (the vector's name
stands beside the test) or written out from the rule named. The last part shows, for every obligation
with hypotheses, a state and operands that meet them together.
-/

namespace Sys2Proof.Tests

open Sys2Proof Sys2Proof.Machine Sys2Proof.Claims

/-! ## Small states -/

/-- The next state of an answer. -/
def next? : Result → Option State
  | .next t => some t
  | .fault _ => none
  | .refused _ => none

/-- The state after one step that runs the word `w`. -/
def ran (w : Nat) (s : State) : Option State := next? (step (s.withFetchWord 16 w))

/-- Reset with some registers set. -/
def regs (l : List (RegIdx × Byte)) : State := l.foldl (fun s p => s.setReg p.1 p.2) State.reset

/-- A state with bytes written from an address. -/
def bytesAt (a : Nat) (l : List Byte) (s : State) : State := s.setMem (putBytes s.mem a l)

/-- A state with PC set. -/
def pcAt (a : Word) (s : State) : State := s.setPc a

/-- A state with I set. -/
def iAt (a : Word) (s : State) : State := s.setI a

/-- A state at a call depth, every slot below it holding `a`. -/
def depth (d : Fin 17) (a : Word) (s : State) : State :=
  { s with sp := d, stack := Vector.replicate 16 a }

/-- The cells of a list that are on. -/
def lit (cells : List (Nat × Nat)) (t : State) : List Bool :=
  cells.map fun p => t.fb.cell (p.2 * 64 + p.1)

/-- How many cells are on. -/
def litCount (t : State) : Nat := ((List.range 2048).filter t.fb.cell).length

/-- A state with some cells on. -/
def cellsOn (cells : List (Nat × Nat)) (s : State) : State :=
  s.setFb (cells.foldl (fun f p => f.toggle (p.2 * 64 + p.1)) s.fb)

/-- HALT(FCAUSE, FOPCODE, FPC, FADDR), or none in RUN. -/
def halt (t : State) : Option (Nat × Nat × Nat × Nat) :=
  match t.mode with
  | .run => none
  | .halt => some (t.fcause.toNat, t.fopcode.toNat, t.fpc.toNat, t.faddr.toNat)

/-! ## WellFormed: each check refuses an ill-formed line -/

theorem test_wf_register_number : AsmLine.wf ⟨.ld, [.reg 16, .num 0]⟩ = false := by decide
theorem test_wf_kk : AsmLine.wf ⟨.ld, [.reg 0, .num 256]⟩ = false := by decide
theorem test_wf_addr : AsmLine.wf ⟨.jp, [.num 0x1000]⟩ = false := by decide
theorem test_wf_n : AsmLine.wf ⟨.drw, [.reg 1, .reg 2, .num 16]⟩ = false := by decide
theorem test_wf_operand_form : AsmLine.wf ⟨.ld, [.delay, .num 5]⟩ = false := by decide
theorem test_wf_operand_count : AsmLine.wf ⟨.cls, [.reg 0]⟩ = false := by decide
theorem test_wf_accepts_the_limits :
    AsmLine.wf ⟨.drw, [.reg 15, .reg 15, .num 15]⟩ = true ∧
      AsmLine.wf ⟨.ld, [.index, .num 0xFFF]⟩ = true ∧ AsmLine.wf ⟨.rnd, [.reg 15, .num 255]⟩ = true := by
  decide
theorem test_assemble_refuses : assemble ⟨.se, [.reg 16, .reg 0]⟩ = none := by decide

/-! ## Decode: every constructor, by a word of spec 2.1 -/

theorem test_decode_display : decodeTableWord 16 0x00E0 = some .cls ∧
    decodeTableWord 16 0xD125 = some (.drwVxVyN 1 2 5) ∧
    decodeTableWord 16 0xD120 = some (.drwVxVyN 1 2 0) := by decide

theorem test_decode_control : decodeTableWord 16 0x00EE = some .ret ∧
    decodeTableWord 16 0x1ABC = some (.jpAddr 0xABC) ∧
    decodeTableWord 16 0x2200 = some (.callAddr 0x200) ∧
    decodeTableWord 16 0x3A7F = some (.seVxKk 0xA 0x7F) ∧
    decodeTableWord 16 0x4001 = some (.sneVxKk 0 1) ∧
    decodeTableWord 16 0x5AB0 = some (.seVxVy 0xA 0xB) ∧
    decodeTableWord 16 0x9AB0 = some (.sneVxVy 0xA 0xB) := by decide

theorem test_decode_immediates : decodeTableWord 16 0x6F07 = some (.ldVxKk 0xF 7) ∧
    decodeTableWord 16 0x7101 = some (.addVxKk 1 1) ∧
    decodeTableWord 16 0xA123 = some (.ldIAddr 0x123) ∧
    decodeTableWord 16 0xC20F = some (.rndVxKk 2 0xF) := by decide

theorem test_decode_op8 : decodeTableWord 16 0x8AB0 = some (.ldVxVy 0xA 0xB) ∧
    decodeTableWord 16 0x8AB1 = some (.orVxVy 0xA 0xB) ∧
    decodeTableWord 16 0x8AB2 = some (.andVxVy 0xA 0xB) ∧
    decodeTableWord 16 0x8AB3 = some (.xorVxVy 0xA 0xB) ∧
    decodeTableWord 16 0x8AB4 = some (.addVxVy 0xA 0xB) ∧
    decodeTableWord 16 0x8AB6 = some (.shrVxVy 0xA 0xB) ∧
    decodeTableWord 16 0x8ABE = some (.shlVxVy 0xA 0xB) := by decide

theorem test_decode_opE_opF : decodeTableWord 16 0xE29E = some (.skpVx 2) ∧
    decodeTableWord 16 0xE2A1 = some (.sknpVx 2) ∧
    decodeTableWord 16 0xF107 = some (.ldVxDt 1) ∧
    decodeTableWord 16 0xF115 = some (.ldDtVx 1) ∧
    decodeTableWord 16 0xF11E = some (.addIVx 1) ∧
    decodeTableWord 16 0xF129 = some (.ldFVx 1) ∧
    decodeTableWord 16 0xF133 = some (.ldBVx 1) ∧
    decodeTableWord 16 0xF155 = some (.ldMemIVx 1) ∧
    decodeTableWord 16 0xF165 = some (.ldVxMemI 1) := by decide

theorem test_decode_refuses : [0x0000, 0x00E1, 0x00EF, 0x00FE, 0x0123, 0x5121, 0x512F, 0x9121, 0x8125,
    0x8127, 0x8128, 0x812D, 0x812F, 0xB200].all (fun w => decodeTableWord 16 w = none) = true := by decide

theorem test_decode_refuses_opE_opF : [0xE19F, 0xE100, 0xE2A0, 0xF000, 0xF10A, 0xF118, 0xF130, 0xF175,
    0xF1FF, 0xFFFF].all (fun w => decodeTableWord 16 w = none) = true := by decide

theorem test_decode_bytes_in_order : (decodeBytes [0x12, 0x34, 0xFF]).toOption =
    some (.jpAddr 0x234, [0xFF]) := by decide

theorem test_decode_one_byte_is_truncated : (decodeBytes [0x12]).toOption = none := by decide

theorem test_encode_drw : encode (.drwVxVyN 1 2 5) = 0xD125 := by decide

/-! ## One step of each instruction (spec 2.2 to 2.7) -/

/-- p2, then the next step's fetch at 0x1000. -/
theorem test_step_p2 : (ran 0x6000 (pcAt 0xFFE State.reset)).map (fun t =>
    (t.pc, (next? (step t)).bind halt)) = some (0x1000, some (2, 0, 0x1000, 0x1000)) := by decide

/-- f4: only the second byte is out of range. -/
theorem test_step_f4 : (next? (step (pcAt 0xFFF State.reset))).bind halt =
    some (2, 0, 0xFFF, 0x1000) := by decide

/-- p5: a fetch at an odd address. -/
theorem test_step_p5 : (next? (step (pcAt 0x201 (bytesAt 0x201 [0x6A, 0x07] State.reset)))).map
    (fun t => (t.reg 0xA, t.pc)) = some (7, 0x203) := by decide

/-- f1, t11: an illegal word does not tick. -/
theorem test_step_f1 : (ran 0xFFFF (regs [(1, 5)] |>.setDt 9)).map (fun t =>
    (halt t, t.reg 1, t.dt, t.pc)) = some (some (1, 0xFFFF, 0x200, 0), 5, 9, 0x200) := by decide

/-- f2: nothing loaded. -/
theorem test_step_f2 : (next? (step State.reset)).bind halt = some (1, 0, 0x200, 0) := by decide

/-- d12. -/
theorem test_cls_d12 : (ran 0x00E0 (cellsOn [(0, 0), (5, 7), (63, 31)] (regs [(0xF, 1)]))).map
    (fun t => (lit [(0, 0), (5, 7), (63, 31)] t, t.reg vf)) = some ([false, false, false], 1) := by
  decide

/-- c13. -/
theorem test_ret_c13 : (ran 0x00EE (pcAt 0x400 (depth 2 0x2F0 State.reset))).map
    (fun t => (t.sp.val, t.pc, t.stack[1])) = some (1, 0x2F2, 0x2F0) := by decide

/-- c14. -/
theorem test_ret_c14 : (ran 0x00EE State.reset).bind halt = some (4, 0x00EE, 0x200, 0) := by decide

/-- c1. -/
theorem test_jp_c1 : (ran 0x1ABC State.reset).map State.pc = some 0xABC := by decide

/-- c11: the sixteenth call succeeds. -/
theorem test_call_c11 : (ran 0x2ABC (pcAt 0x300 (depth 15 0x200 State.reset))).map
    (fun t => (t.sp.val, t.pc, t.stack[15], t.stack[14])) = some (16, 0xABC, 0x300, 0x200) := by decide

/-- c12: the seventeenth does not. -/
theorem test_call_c12 : (ran 0x2ABC (pcAt 0x300 (depth 16 0x200 State.reset))).map
    (fun t => (halt t, t.sp.val, t.stack[15])) = some (some (3, 0x2ABC, 0x300, 0), 16, 0x200) := by
  decide

/-- c4. -/
theorem test_se_kk_c4 : (ran 0x332A (pcAt 0x210 (regs [(3, 0x2A)]))).map State.pc = some 0x214 ∧
    (ran 0x332A (pcAt 0x210 (regs [(3, 0x2B)]))).map State.pc = some 0x212 := by decide

/-- c5. -/
theorem test_sne_kk_c5 : (ran 0x432A (pcAt 0x210 (regs [(3, 0x2A)]))).map State.pc = some 0x212 ∧
    (ran 0x432A (pcAt 0x210 (regs [(3, 0x2B)]))).map State.pc = some 0x214 := by decide

/-- c6, c8. -/
theorem test_se_vy_c6_c8 : (ran 0x5330 (regs [(3, 9)])).map State.pc = some 0x204 ∧
    (ran 0x5120 (regs [(1, 7), (2, 8)])).map State.pc = some 0x202 := by decide

/-- c7, c9. -/
theorem test_sne_vy_c7_c9 : (ran 0x9330 (regs [(3, 9)])).map State.pc = some 0x202 ∧
    (ran 0x9120 (regs [(1, 7), (2, 8)])).map State.pc = some 0x204 := by decide

/-- S1, a1. -/
theorem test_ld_kk_a1 : (ran 0x6005 State.reset).map (fun t => (t.reg 0, t.pc)) = some (5, 0x202) ∧
    (ran 0x6F07 State.reset).map (fun t => t.reg vf) = some 7 := by decide

/-- a3, a4. -/
theorem test_add_kk_a3_a4 : (ran 0x7101 (regs [(1, 0xFF), (0xF, 0x55)])).map
      (fun t => (t.reg 1, t.reg vf)) = some (0, 0x55) ∧
    (ran 0x7F01 (regs [(0xF, 0xFF)])).map (fun t => t.reg vf) = some 0 := by decide

/-- a6. -/
theorem test_ld_vy_a6 : (ran 0x8120 (regs [(2, 0x7C)])).map (fun t => (t.reg 1, t.reg 2)) =
    some (0x7C, 0x7C) := by decide

/-- a7. -/
theorem test_or_a7 : (ran 0x8121 (regs [(1, 0x0F), (2, 0xF0), (0xF, 1)])).map
    (fun t => (t.reg 1, t.reg vf)) = some (0xFF, 1) := by decide

/-- a8. -/
theorem test_and_a8 : (ran 0x8122 (regs [(1, 0x3C), (2, 0x0F)])).map (fun t => t.reg 1) =
    some 0x0C := by decide

/-- a9. -/
theorem test_xor_a9 : (ran 0x8123 (regs [(1, 0xFF), (2, 0x0F)])).map (fun t => t.reg 1) =
    some 0xF0 := by decide

/-- a11, a15. -/
theorem test_add_vy_a11_a15 : (ran 0x8014 (regs [(0, 0xF0), (1, 0x20)])).map
      (fun t => (t.reg 0, t.reg vf)) = some (0x10, 1) ∧
    (ran 0x8014 (regs [(0, 0x7F), (1, 0x80)])).map (fun t => (t.reg 0, t.reg vf)) =
      some (0xFF, 0) := by decide

/-- a17, a19: VF as destination, VF as addend. -/
theorem test_add_vy_a17_a19 : (ran 0x8F14 (regs [(0xF, 0x80), (1, 0x90)])).map (fun t => t.reg vf) =
      some 1 ∧
    (ran 0x80F4 (regs [(0, 0xFF), (0xF, 1)])).map (fun t => (t.reg 0, t.reg vf)) = some (0, 1) := by
  decide

/-- s1, s4: SHR for both values of SHIFT_SOURCE. -/
theorem test_shr_s1_s4 : [Config.ShiftSource.vx, .vy].map (fun c =>
      let t := shiftRight c 1 2 (regs [(1, 5), (2, 8)])
      let u := shiftRight c 0xF 1 (regs [(0xF, 3), (1, 4)])
      (t.reg 1, t.reg vf, t.reg 2, t.pc, u.reg vf)) =
    [(2, 1, 8, 0x202, 1), (4, 0, 8, 0x202, 0)] := by decide

/-- l1, l4: SHL for both values of SHIFT_SOURCE. -/
theorem test_shl_l1_l4 : [Config.ShiftSource.vx, .vy].map (fun c =>
      let t := shiftLeft c 1 2 (regs [(1, 0x81), (2, 0x40)])
      let u := shiftLeft c 0xF 1 (regs [(0xF, 0x80), (1, 1)])
      (t.reg 1, t.reg vf, t.reg 2, t.pc, u.reg vf)) =
    [(2, 1, 0x40, 0x202, 1), (0x80, 0, 0x40, 0x202, 0)] := by decide

/-- s3, l2: with x = y both values of SHIFT_SOURCE agree, so the step itself is known. -/
theorem test_shift_steps_s3_l2 :
    (ran 0x8116 (regs [(1, 1)])).map (fun t => (t.reg 1, t.reg vf)) = some (0, 1) ∧
    (ran 0x811E (regs [(1, 0xFF)])).map (fun t => (t.reg 1, t.reg vf)) = some (0xFE, 1) := by
  have key : ∀ (w : Nat) (s : State) (i : Instr), decode (wordAt (s.withFetchWord 16 w)) = .ok i →
      s.mode = .run → s.pc = 0x200 → ran w s = next? (finishStep .coupled (exec i (s.withFetchWord 16 w))) := by
    intro w s i hd hm hp
    have hm' : (s.withFetchWord 16 w).mode = .run := by
      simp [State.withFetchWord, placeWord, State.running, hm]
    have hp' : (s.withFetchWord 16 w).pc.toNat < 4095 := by
      simp [State.withFetchWord, placeWord, State.running, hm, fetchRoom, hp]
    rcases step_of_run hm' with ⟨h, -⟩ | ⟨-, v, hv, h⟩
    · omega
    · rw [fetch_eq, if_pos hp'] at hv
      obtain rfl : wordAt (s.withFetchWord 16 w) = v := by simpa [wordAt, joinBytes] using hv
      rcases h with ⟨e, he, -⟩ | ⟨j, hj, hs⟩
      · rw [hd] at he; cases he
      · rw [hd] at hj; cases hj; rw [ran, hs]
  constructor
  · rw [key 0x8116 _ (.shrVxVy 1 1) rfl rfl rfl]
    cases h : Config.shiftSource <;> simp only [exec, execShrVxVy, h] <;> decide
  · rw [key 0x811E _ (.shlVxVy 1 1) rfl rfl rfl]
    cases h : Config.shiftSource <;> simp only [exec, execShlVxVy, h] <;> decide

/-- r1, r2, with the fixed sequence A7. -/
theorem test_rnd_r1_r2 : (ran 0xC20F (State.reset.setRng (.fixedSequence [0xA7] 0))).map
      (fun t => (t.reg 2, t.rng)) = some (7, .fixedSequence [] 0) ∧
    (ran 0xC200 (regs [(2, 9)] |>.setRng (.fixedSequence [0xA7] 0))).map
      (fun t => (t.reg 2, t.rng)) = some (0, .fixedSequence [] 0) := by decide

/-- The live source advances by one byte, which is what the mask is applied to. -/
theorem test_rnd_live : (ran 0xC2FF State.reset).map (fun t => (t.reg 2, t.rng)) =
    some (Config.randomByte 0 &&& 0xFF, .live 1) := rfl

/-- i2. -/
theorem test_ld_i_i2 : (ran 0xAFFF (iAt 0x1234 State.reset)).map State.iReg = some 0x0FFF := by decide

/-- i4, i5. -/
theorem test_add_i_i4_i5 : (ran 0xF11E (iAt 0xFF00 (regs [(1, 0xFF)]))).map State.iReg = some 0xFFFF ∧
    (ran 0xF11E (iAt 0xFFFF (regs [(1, 1)]))).map (fun t => (halt t, t.iReg)) =
      some (some (2, 0xF11E, 0x200, 0x10000), 0xFFFF) := by decide

/-- i9, i12. -/
theorem test_ld_f_i9_i12 : (ran 0xF029 (regs [(0, 0x0A)])).map State.iReg = some 0x32 ∧
    (ran 0xF029 (regs [(0, 0xFF)])).map State.iReg = some 0x4FB := by decide

/-- b1, b6. -/
theorem test_ld_b_b1_b6 : (ran 0xF333 (iAt 0x400 (regs [(3, 234)]))).map
      (fun t => bytesFrom t.mem 0x400 4) = some [2, 3, 4, 0] ∧
    (ran 0xF333 (iAt 0xFFD (regs [(3, 199)]))).map (fun t => bytesFrom t.mem 0xFFC 4) =
      some [0, 1, 9, 9] := by decide

/-- b7, b8. -/
theorem test_ld_b_b7_b8 : (ran 0xF333 (iAt 0xFFE (regs [(3, 199)]))).map
      (fun t => (halt t, bytesFrom t.mem 0xFFE 2)) = some (some (2, 0xF333, 0x200, 0x1000), [0, 0]) ∧
    (ran 0xF333 (iAt 0x1003 (regs [(3, 199)]))).bind halt = some (2, 0xF333, 0x200, 0x1003) := by
  decide

/-- m1, m11: registers stored, and stored where the next instruction lies. -/
theorem test_ld_mem_m1_m11 : (ran 0xF255 (iAt 0x400 (regs [(0, 0x11), (1, 0x22), (2, 0x33), (3, 0x44)]))).map
      (fun t => (bytesFrom t.mem 0x400 4, t.iReg)) = some ([0x11, 0x22, 0x33, 0], 0x400) ∧
    (ran 0xF155 (iAt 0x202 (regs [(0, 0x12)]))).bind (fun t => (next? (step t)).map State.pc) =
      some 0x200 := by decide

/-- m5. -/
theorem test_ld_mem_m5 : (ran 0xF155 (iAt 0xFFF (regs [(0, 0xAB), (1, 0xCD)]))).map
    (fun t => (halt t, t.mem.byteAt 0xFFF)) = some (some (2, 0xF155, 0x200, 0x1000), 0) := by decide

/-- m7. -/
theorem test_ld_vx_mem_m7 : (ran 0xF265 (iAt 0x300 (bytesAt 0x300 [2, 3, 4, 5] (regs [(3, 0x77)])))).map
    (fun t => (t.reg 0, t.reg 1, t.reg 2, t.reg 3, t.iReg)) = some (2, 3, 4, 0x77, 0x300) := by decide

/-- m9. -/
theorem test_ld_vx_mem_m9 : (ran 0xF165 (iAt 0xFFF (regs [(0, 9)]))).map
    (fun t => (halt t, t.reg 0)) = some (some (2, 0xF165, 0x200, 0x1000), 9) := by decide

/-- d2: wraps right to left and bottom to top. -/
theorem test_drw_d2 : (ran 0xD122 (iAt 0x300 (bytesAt 0x300 [0xC3, 0x81] (regs [(1, 62), (2, 31)])))).map
    (fun t => (lit [(62, 31), (63, 31), (4, 31), (5, 31), (62, 0), (5, 0)] t, litCount t, t.reg vf)) =
    some ([true, true, true, true, true, true], 6, 0) := by decide +kernel

/-- d10, d13: a collision, and VF as coordinate. -/
theorem test_drw_d10_d13 : (ran 0xD121 (iAt 0x300 (bytesAt 0x300 [0xC0] (cellsOn [(0, 0)] State.reset)))).map
      (fun t => (lit [(0, 0), (1, 0)] t, t.reg vf)) = some ([false, true], 1) ∧
    (ran 0xDF11 (iAt 0x300 (bytesAt 0x300 [0x80] (regs [(0xF, 10)])))).map
      (fun t => (lit [(10, 0)] t, t.reg vf)) = some ([true], 0) := by decide +kernel

/-- k1, k6. -/
theorem test_skp_k1_k6 : (ran 0xE29E (pcAt 0x208 (regs [(2, 7)] |>.setKeys 0x0080))).map State.pc =
      some 0x20C ∧
    (ran 0xE29E (State.reset.setKeys 0xFFFE)).map State.pc = some 0x202 := by decide

/-- k7. -/
theorem test_skp_k7 : (ran 0xE29E (regs [(2, 0x10)] |>.setKeys 0xFFFF)).bind halt =
    some (5, 0xE29E, 0x200, 0) := by decide

/-- k3, k8. -/
theorem test_sknp_k3_k8 : (ran 0xE2A1 (pcAt 0x20C (regs [(2, 7)] |>.setKeys 0x0080))).map State.pc =
      some 0x20E ∧
    (ran 0xE2A1 (regs [(2, 0xFF)])).bind halt = some (5, 0xE2A1, 0x200, 0) := by decide

/-- t5, t10. -/
theorem test_ld_vx_dt_t5_t10 : (ran 0xF107 (State.reset.setDt 4)).map (fun t => (t.reg 1, t.dt)) =
      some (4, 3) ∧
    (ran 0xFF07 (State.reset.setDt 51)).map (fun t => (t.reg vf, t.dt)) = some (0x33, 50) := by decide

/-- t1, t2. -/
theorem test_ld_dt_vx_t1_t2 : (ran 0xF015 (regs [(0, 5)])).map State.dt = some 4 ∧
    (ran 0xF015 (State.reset.setDt 9)).map State.dt = some 0 := by decide

/-- The rows of spec 2.7 for Tick with ST not 0. -/
theorem test_tick_beep : [(0, 2), (0, 1), (3, 1)].map (fun p : Byte × Byte =>
      let t := tick { State.reset with dt := p.1, st := p.2 }
      (t.dt, t.st, t.beep)) = [(0, 1, false), (0, 0, true), (2, 0, true)] := by decide

/-- f7: reset from a halted state. -/
theorem test_reset_leaves_halt : next? (hostEvent .reset (takeFault .decodeFailure 0xFFFF 0 State.reset)) =
    some State.reset := by decide

/-- Load (R73) at the two lengths where its answers meet. -/
theorem test_load_lengths : (loadProgram (List.replicate 3585 7) State.reset).1 = .programTooLarge ∧
    (loadProgram [0x60, 0x05] State.reset).2.mem = [(0x200, 0x60), (0x201, 0x05)] := by decide +kernel

/-- What the host reads after f1. -/
theorem test_outputs : (ran 0xFFFF State.reset).map (fun t =>
    ((outputs t).mode, (outputs t).fcause, (outputs t).fopcode, (outputs t).beep)) =
    some (.halt, 1, 0xFFFF, false) := by decide

/-! ## Witnesses: the hypotheses of the obligations, met together -/

/-- A halted state. -/
def halted : State := takeFault .decodeFailure 0xFFFF 0 State.reset

/-- A state about to run `w` at 0x200. -/
def about (w : Nat) : State := State.reset.withFetchWord 16 w

theorem test_witness_StepKeepsTheInvariant :
    ((about 0xF033).inv ∧ ∃ t, step (about 0xF033) = .next t) ∧
      halted.inv ∧ ∃ t, step halted = .next t := by
  exact ⟨⟨by decide, _, rfl⟩, by decide, _, rfl⟩

theorem test_witness_HostRunKeepsTheInvariant : State.reset.inv ∧
    ∃ t, hostRun [.reset, .load [0x60, 0x05], .step 0x80, .tick] State.reset = .next t :=
  ⟨by decide, _, rfl⟩

theorem test_witness_LoadCopiesOrRefuses : 3584 < (List.replicate 3585 (0 : Byte)).length ∧
    (List.replicate 3584 (0 : Byte)).length ≤ 3584 ∧ State.reset.mem.wf := by
  rw [List.length_replicate, List.length_replicate]
  decide

theorem test_witness_OnlyResetLeavesHalt :
    (∃ t, hostEvent .reset halted = .next t) ∧
    (∃ t, hostEvent (.step 0) State.reset = .next t ∧ State.reset.mode = .run ∧ t.mode = .halt) ∧
    (∃ t, hostEvent (.step 0) (about 0x6005) = .next t ∧ t.mode = .run) ∧
    (∃ t, hostEvent (.step 0) halted = .next t ∧ halted.mode = .halt) ∧
    (∃ t, hostEvent (.load [1]) halted = .next t) ∧ ∃ t, hostEvent .tick halted = .next t :=
  ⟨⟨_, rfl⟩, ⟨_, rfl, rfl, rfl⟩, ⟨_, rfl, rfl⟩, ⟨_, rfl, rfl⟩, ⟨_, rfl⟩, _, rfl⟩

theorem test_witness_run_and_halt : State.reset.mode = .run ∧ halted.mode = .halt := ⟨rfl, rfl⟩

theorem test_witness_StepRunsTheDecodedInstruction :
    ((about 0x6005).mode = .run ∧ (about 0x6005).pc.toNat < 4095 ∧
      decode (wordAt (about 0x6005)) = .ok (.ldVxKk 0 5)) ∧
    ((State.reset.setPc 4094).withFetchWord 16 0x6005).pc.toNat = 4094 ∧
    decode (wordAt ((State.reset.setPc 4094).withFetchWord 16 0x6005)) = .ok (.ldVxKk 0 5) :=
  ⟨⟨rfl, by decide, rfl⟩, by decide, rfl⟩

/-- Both ends of an execute phase: a next state in RUN, and one in HALT. -/
theorem test_witness_StepEnds : (∃ t, exec (.ldVxKk 0 5) State.reset = .next t ∧ t.mode = .run) ∧
    ∃ t, exec .ret State.reset = .next t ∧ t.mode = .halt := ⟨⟨_, rfl, rfl⟩, _, rfl, rfl⟩

theorem test_witness_FetchReadsTheWordAtPcOrFaults : (pcAt 4094 State.reset).pc.toNat < 4095 ∧
    ((State.reset.setPc 4096).mode = .run ∧ 4095 < (State.reset.setPc 4096).pc.toNat) ∧
      (State.reset.setPc 4095).mode = .run ∧ (State.reset.setPc 4095).pc.toNat = 4095 := by decide

theorem test_witness_IllegalWordFaultsAtItsFetch : State.reset.mode = .run ∧
    State.reset.pc.toNat < 4095 ∧ ∀ i, decode (wordAt State.reset) ≠ .ok i :=
  ⟨rfl, by decide, fun i h => by
    have : decode (wordAt State.reset) = .error .op0 := rfl
    rw [this] at h; cases h⟩

theorem test_witness_PlacedWordIsTheNextToRun : State.reset.mem.wf ∧ (pcAt 4095 halted).mem.wf := by
  decide

theorem test_witness_ProgramCounterNeverWraps :
    ((pcAt 0xFFE State.reset).pc.toNat < 4095 ∧ (pcAt 0xFFE State.reset).stackBounded ∧
      ∃ t, exec (.seVxKk 0 0) (pcAt 0xFFE State.reset) = .next t ∧ t.pc.toNat = 0x1002) ∧
    ((depth 16 0xFFE State.reset).stackBounded ∧
      ∃ t, exec .ret (depth 16 0xFFE State.reset) = .next t ∧ t.pc.toNat = 0x1000) ∧
    ∃ t, exec .ret State.reset = .next t ∧ t.mode = .halt :=
  ⟨⟨by decide, by decide, _, rfl, by decide⟩, ⟨by decide, _, rfl, by decide⟩, _, rfl, rfl⟩

theorem test_witness_FinishedProgramStaysFinished : (about 0x1200).finished = true := by decide

theorem test_witness_EachLegalWordIsItsInstructionsOwn : decode 0xD12F = .ok (.drwVxVyN 1 2 15) := rfl

theorem test_witness_DecoderAgreesWithTheOpcodeMap :
    decode 0x8AB6 = .ok (.shrVxVy 0xA 0xB) ∧ ∃ r ∈ opcodeTable, r.accepts 0x8AB6 = true :=
  ⟨rfl, (Instr.shrVxVy 0 0).row, by decide, by decide⟩

theorem test_witness_RetPopsTheCallAndAddsTwo : State.reset.sp.val = 0 ∧
    0 < (depth 1 0xFFE State.reset).sp.val ∧ 0 < (depth 16 0xFFE State.reset).sp.val ∧
    (slot (depth 16 0xFFE State.reset) 15).toNat + 2 ≤ 0xFFFF := by decide

theorem test_witness_CallPushesItsOwnAddress : (depth 16 0x200 State.reset).sp.val = 16 ∧
    (depth 15 0x200 State.reset).sp.val < 16 ∧ State.reset.sp.val < 16 := by decide

theorem test_witness_ReturnUndoesCall : (depth 15 0x200 State.reset).sp.val < 16 ∧
    ∃ t t' : State, exec (.callAddr 0x300) (depth 15 0x200 State.reset) = .next t ∧
      t' = t.setReg 0 9 ∧ t'.sp = t.sp ∧ t'.stack = t.stack :=
  ⟨by decide, _, _, rfl, rfl, rfl, rfl⟩

theorem test_witness_RegisterSkipsCompareAndSkip : State.reset.reg 1 = 0 ∧ State.reset.reg 1 ≠ 1 ∧
    State.reset.reg 1 = State.reset.reg 2 ∧ (regs [(1, 7)]).reg 1 ≠ (regs [(1, 7)]).reg 2 := by decide

/-- The one open parameter of R167 and R168 has one of the two values of its clauses. -/
theorem test_witness_ShiftsReportTheBitShiftedOut :
    Config.shiftSource = .vx ∨ Config.shiftSource = .vy := by
  cases Config.shiftSource <;> simp

/-- A destination that is not VF, and VF itself (AddVxVy…, Shifts…). -/
theorem test_witness_destination_and_vf : (1 : RegIdx) ≠ vf ∧ (15 : RegIdx) = vf := by decide

theorem test_witness_RndMasksOneRandomByte :
    (State.reset.setRng (.fixedSequence [0xA7] 0)).rng = .fixedSequence (0xA7 :: []) 0 := by decide

theorem test_witness_AddIVxAddsOrFaults :
    (iAt 0xFF00 (regs [(1, 0xFF)])).iReg.toNat + ((iAt 0xFF00 (regs [(1, 0xFF)])).reg 1).toNat ≤ 0xFFFF ∧
    0xFFFF < (iAt 0xFF01 (regs [(1, 0xFF)])).iReg.toNat +
      ((iAt 0xFF01 (regs [(1, 0xFF)])).reg 1).toNat := by decide

theorem test_witness_LdBVxStoresThreeDigits : 4095 < (iAt 0xFFE State.reset).iReg.toNat + 2 ∧
    (iAt 0xFFD State.reset).iReg.toNat + 2 ≤ 4095 ∧ (iAt 0xFFD State.reset).mem.wf ∧
    baseAddr (iAt 0xFFD State.reset) = 0xFFD := by decide

/-- For Fx55 and Fx65, at x = 15 (m2, m3) and x = 0. -/
theorem test_witness_register_ranges :
    4095 < (iAt 0xFF1 State.reset).iReg.toNat + (15 : RegIdx).val ∧
    (iAt 0xFF0 State.reset).iReg.toNat + (15 : RegIdx).val ≤ 4095 ∧
    (iAt 0xFFF State.reset).iReg.toNat + (0 : RegIdx).val ≤ 4095 ∧
    (iAt 0xFF0 State.reset).mem.wf ∧ baseAddr (iAt 0xFF0 State.reset) = 0xFF0 ∧
    (15 : RegIdx) ≤ 15 := by decide

theorem test_witness_OneByteAccessesAreCheckedAndLocal : 4095 < 4096 ∧ 4095 ≤ 4095 ∧
    Memory.wf [(0x300, 7)] ∧ 4094 ≠ 4095 := by decide

theorem test_witness_StoreToCodeIsFetchedNext : (iAt 0x202 State.reset).mem.wf ∧
    1 ≤ (1 : RegIdx).val ∧ (iAt 0x202 State.reset).iReg.toNat + (1 : RegIdx).val ≤ 4095 ∧
    (iAt 0x202 State.reset).iReg.toNat = (iAt 0x202 State.reset).pc.toNat + 2 := by decide

/-- d4, d5, d1: the last sprite that fits, the first that does not, and n = 0 anywhere. -/
theorem test_witness_DrwXorsTheSpriteAndReportsCollision :
    (0 < (2 : BitVec 4).toNat ∧
      4095 < (iAt 0xFFF State.reset).iReg.toNat + (2 : BitVec 4).toNat - 1) ∧
    (iAt 0xFFF State.reset).iReg.toNat + (1 : BitVec 4).toNat - 1 ≤ 4095 ∧
    (0 : BitVec 4).toNat = 0 ∧ ¬ (0 < (0 : BitVec 4).toNat) := by decide

theorem test_witness_OneDrawTogglesACellAtMostOnce : 14 < 15 ∧ 7 < 8 ∧
    cellIndex (62 + 7) (31 + 14) = cellIndex (62 + 7) (31 + 14) := by decide

/-- A sprite with a set bit on an all-off framebuffer, and the state of its second draw. -/
theorem test_witness_DrawingTwiceRestoresTheFramebuffer :
    let s := iAt 0x300 (bytesAt 0x300 [0x80] State.reset)
    s.iReg.toNat + (1 : BitVec 4).toNat ≤ 4096 ∧ (∀ c < 2048, s.fb.cell c = false) ∧
    (∃ i k, i < (1 : BitVec 4).toNat ∧ k < 8 ∧
      (s.mem.byteAt (s.iReg.toNat + i)).getLsbD k = true) ∧
    ∃ t t' : State, exec (.drwVxVyN 1 2 1) s = .next t ∧ t' = t.setReg 3 9 ∧
      Part.frame.same t t' ∧ Part.memory.same t t' ∧ t'.iReg = t.iReg ∧
      t'.reg 1 = s.reg 1 ∧ t'.reg 2 = s.reg 2 := by
  refine ⟨by decide, fun c _ => cell_clear c, ⟨0, 7, by decide, by decide, by decide⟩, _, _, rfl, rfl,
    fun _ _ => rfl, fun _ => rfl, rfl, by decide, by decide⟩

/-- The same at both edges of the n clause: n = 0 with I out of range, and the last address. -/
theorem test_witness_DrawingTwice_edges : (0 : BitVec 4).toNat = 0 ∧
    (iAt 0xFF1 State.reset).iReg.toNat + (15 : BitVec 4).toNat ≤ 4096 := by decide

theorem test_witness_KeypadSkipsTestTheNamedKey : 15 < ((regs [(2, 16)]).reg 2).toNat ∧
    ((regs [(2, 15)]).reg 2).toNat ≤ 15 ∧
    (State.reset.setKeys 0x8000).keys.getLsbD 15 = true ∧ State.reset.keys.getLsbD 15 = false := by
  decide

theorem test_witness_DelayTimerIsReadAndSetBeforeTheTick :
    ((about 0xF015).mode = .run ∧ (about 0xF015).pc.toNat < 4095 ∧
      decode (wordAt (about 0xF015)) = .ok (.ldDtVx 0)) ∧
    (about 0xF107).mode = .run ∧ (about 0xF107).pc.toNat < 4095 ∧
      decode (wordAt (about 0xF107)) = .ok (.ldVxDt 1) :=
  ⟨⟨rfl, by decide, rfl⟩, rfl, by decide, rfl⟩

theorem test_witness_DelayTimerCountsInstructions : (about 0x6005).mode = .run ∧
    (∃ t, step (about 0x6005) = .next t ∧ t.mode = .run) ∧
    ∀ x, decode (wordAt (about 0x6005)) ≠ .ok (.ldDtVx x) :=
  ⟨rfl, ⟨_, rfl, rfl⟩, fun x h => by
    have : decode (wordAt (about 0x6005)) = .ok (.ldVxKk 0 5) := rfl
    rw [this] at h; cases h⟩

theorem test_witness_TakingAFaultRecordsItAndHalts : 0x1FFFF < 2 ^ 17 := by decide

/-- PC sums that fit, the largest among them (`Advances`). -/
theorem test_witness_Advances : State.reset.pc.toNat + 4 ≤ 0xFFFF ∧
    (pcAt 0xFFFB State.reset).pc.toNat + 4 ≤ 0xFFFF := by decide

/-- Both outcomes: the row of the matrix, for an instruction that stores nothing and for the two that
store, at the last address where they can; and a fault. -/
theorem test_witness_InstructionsWriteOnlyTheirRow : State.reset.mode = .run ∧
    (∃ t, exec (.ldVxKk 0 5) State.reset = .next t) ∧
    (∃ t, exec (.ldBVx 0) (iAt 0xFFD State.reset) = .next t ∧ t.mode = .run) ∧
    (∃ t, exec (.ldMemIVx 15) (iAt 0xFF0 State.reset) = .next t ∧ t.mode = .run) ∧
    ∃ t, exec .ret State.reset = .next t ∧ t.mode = .halt :=
  ⟨rfl, ⟨_, rfl⟩, ⟨_, rfl, rfl⟩, ⟨_, rfl, rfl⟩, _, rfl, rfl⟩

/-- Its three cases: the fetch, the decoder, an instruction. -/
theorem test_witness_FaultsArePreciseAndHaveTheirCause :
    (∃ t, step (pcAt 4095 State.reset) = .next t ∧ t.mode = .halt) ∧
    (∃ t, step (about 0xFFFF) = .next t ∧ t.mode = .halt) ∧
    ∃ t, step (about 0x00EE) = .next t ∧ t.mode = .halt :=
  ⟨⟨_, rfl, rfl⟩, ⟨_, rfl, rfl⟩, _, rfl, rfl⟩

theorem test_witness_OnlyKeypadSkipsReadTheKeypad :
    (∀ x, Instr.cls ≠ .skpVx x ∧ Instr.cls ≠ .sknpVx x) ∧ ∃ t, exec .cls State.reset = .next t :=
  ⟨fun _ => ⟨nofun, nofun⟩, _, rfl⟩

theorem test_witness_OnlyRndAdvancesTheRandomSource :
    ∃ t, step (about 0xC20F) = .next t ∧ t.rng ≠ (about 0xC20F).rng := ⟨_, rfl, nofun⟩

theorem test_witness_FramebufferAndCallStackHaveTheirOwnInstructions :
    (∃ t, step (cellsOn [(0, 0)] (about 0x00E0)) = .next t ∧
      ¬ Part.frame.same (cellsOn [(0, 0)] (about 0x00E0)) t) ∧
    ∃ t, step (about 0x2300) = .next t ∧ ¬ Part.callStack.same (about 0x2300) t := by
  refine ⟨⟨_, rfl, fun h => ?_⟩, _, rfl, fun h => ?_⟩
  · exact absurd (h 0 (by decide)) (by decide)
  · exact absurd h.1 (by decide)

theorem test_witness_SoundTimerStaysDead : State.reset.st = 0 ∧ State.reset.beep = false ∧
    ∃ t, hostRun [.load [0x60, 0x05], .step 0, .step 0] State.reset = .next t := ⟨rfl, rfl, _, rfl⟩

theorem test_witness_KeypadInputIsInvisibleToOtherSteps :
    (∀ x, decode (wordAt (about 0x6005)) ≠ .ok (.skpVx x)) ∧
    (∀ x, decode (wordAt (about 0x6005)) ≠ .ok (.sknpVx x)) ∧
    ∃ t, hostEvent (.step 0x80) (about 0x6005) = .next t := by
  have : decode (wordAt (about 0x6005)) = .ok (.ldVxKk 0 5) := rfl
  rw [this]
  exact ⟨fun _ => nofun, fun _ => nofun, _, rfl⟩

end Sys2Proof.Tests
end

/-! # The state of the core: what an instruction, a step and a host transaction leave unchanged

Proofs for the statements over spec/10_state.md. What an instruction can do is said once
(`exec_answers`), what a step can do once (`step_cases`); the statements are read off these. -/

namespace Sys2Proof.Claims

open Sys2Proof Sys2Proof.Machine

/-! ## Unchanged parts, update by update -/

section Kept

variable {c : List Part} {s t u : State}

theorem Kept.refl (c : List Part) (s : State) : Kept c s s := by
  intro p _
  cases p <;> simp [Part.same]

theorem Kept.trans (h : Kept c s t) (h' : Kept c t u) : Kept c s u := by
  intro p hp
  have hst := h p hp
  have htu := h' p hp
  cases p <;> simp_all [Part.same]

theorem Kept.mono {d : List Part} (h : Kept c s t) (hcd : c ⊆ d) : Kept d s t :=
  fun p hp => h p fun hc => hp (hcd hc)

theorem kept_setReg (hc : .regs ∈ c) (r : RegIdx) (b : Byte) : Kept c s (s.setReg r b) := by
  intro p hp
  cases p <;> simp_all [Part.same]

theorem kept_setRegFlag (hc : .regs ∈ c) (x : RegIdx) (b f : Byte) :
    Kept c s (s.setRegFlag x b f) :=
  (kept_setReg hc x b).trans (kept_setReg hc vf f)

theorem kept_loadRegs (hc : .regs ∈ c) (k : Nat) (bytes : List Byte) (s : State) :
    Kept c s (loadRegs k bytes s) := by
  induction bytes generalizing k s with
  | nil => exact .refl c s
  | cons b rest ih => exact (kept_setReg hc _ b).trans (ih (k + 1) _)

theorem kept_setI (hc : .index ∈ c) (a : Word) : Kept c s (s.setI a) := by
  intro p hp
  cases p <;> simp_all [Part.same]

theorem kept_setPc (hc : .pc ∈ c) (a : Word) : Kept c s (s.setPc a) := by
  intro p hp
  cases p <;> simp_all [Part.same]

theorem kept_fallThrough (hc : .pc ∈ c) : Kept c s s.fallThrough := kept_setPc hc _

theorem kept_skipIf (hc : .pc ∈ c) (taken : Bool) : Kept c s (s.skipIf taken) := by
  cases taken <;> exact kept_setPc hc _

theorem kept_setMem (hc : .memory ∈ c) (m : Memory) : Kept c s (s.setMem m) := by
  intro p hp
  cases p <;> simp_all [Part.same]

theorem kept_setFb (hc : .frame ∈ c) (f : Framebuffer) : Kept c s (s.setFb f) := by
  intro p hp
  cases p <;> simp_all [Part.same]

theorem kept_setDt (hc : .delay ∈ c) (b : Byte) : Kept c s (s.setDt b) := by
  intro p hp
  cases p <;> simp_all [Part.same]

theorem kept_setRng (hc : .random ∈ c) (g : RandomSource) : Kept c s (s.setRng g) := by
  intro p hp
  cases p <;> simp_all [Part.same]

theorem kept_setCallStack (hc : .callStack ∈ c) (n : Fin 17) (slots : Vector Word 16) :
    Kept c s { s with sp := n, stack := slots } := by
  intro p hp
  cases p <;> simp_all [Part.same, State.reg]

theorem kept_setBeep (hc : .ports ∈ c) (b : Bool) : Kept c s (s.setBeep b) := by
  intro p hp
  cases p <;> simp_all [Part.same]

theorem kept_tick (hd : .delay ∈ c) (hs : .sound ∈ c) (hb : .ports ∈ c) : Kept c s (tick s) := by
  intro p hp
  cases p <;> simp_all [Part.same]

theorem kept_takeFault (hc : .control ∈ c) (hb : .ports ∈ c) (cause : FaultCause) (w : Word)
    (a : Nat) : Kept c s (takeFault cause w a s) := by
  intro p hp
  cases p <;> simp_all [Part.same]

end Kept

section LoadRegs

variable (k : Nat) (bytes : List Byte) (s : State)

@[simp] theorem pc_loadRegs : (loadRegs k bytes s).pc = s.pc := by rw [loadRegs_eq]

@[simp] theorem stack_loadRegs : (loadRegs k bytes s).stack = s.stack := by rw [loadRegs_eq]

@[simp] theorem mem_loadRegs : (loadRegs k bytes s).mem = s.mem := by rw [loadRegs_eq]

end LoadRegs

/-! ## The access matrix, part by part (spec/10_state.md R39) -/

theorem pc_mem_writes (i : Instr) : .pc ∈ writes i := by
  cases i <;> simp [writes]

theorem control_notMem_writes (i : Instr) : .control ∉ writes i := by
  cases i <;> simp [writes]

theorem random_mem_writes {i : Instr} : .random ∈ writes i ↔ ∃ x kk, i = .rndVxKk x kk := by
  cases i <;> simp [writes]

theorem frame_mem_writes {i : Instr} :
    .frame ∈ writes i ↔ i = .cls ∨ ∃ x y n, i = .drwVxVyN x y n := by
  cases i <;> simp [writes]

theorem callStack_mem_writes {i : Instr} :
    .callStack ∈ writes i ↔ i = .ret ∨ ∃ a, i = .callAddr a := by
  cases i <;> simp [writes]

/-- An instruction with a destination register writes the registers. -/
theorem regs_mem_writes {i : Instr} {r : RegIdx} (h : destination i r) : .regs ∈ writes i := by
  cases i <;> simp_all [writes, destination]

/-! ## What an instruction can do -/

/-- The address a fault with this cause reports: one above 4095 that fits FADDR for
MemoryOutOfBounds, 0 for every other cause (spec/60_exceptions.md R257). -/
def Reports : FaultCause → Nat → Prop
  | .memoryOutOfBounds, a => 4096 ≤ a ∧ a < 2 ^ 17
  | _, a => a = 0

/-- The states an instruction that does not fault can leave, by the updates it makes. -/
inductive Completed (i : Instr) (s : State) : State → Prop
  | skip (taken : Bool) : Completed i s (s.skipIf taken)
  | load (x : RegIdx) (b : Byte) (hx : destination i x) : Completed i s (s.setReg x b).fallThrough
  | loadWithFlag (x : RegIdx) (b f : Byte) (hx : destination i x) (hf : destination i vf) :
      Completed i s (s.setRegFlag x b f).fallThrough
  | loadRange (x : RegIdx) (bytes : List Byte) (hi : i = .ldVxMemI x)
      (hlen : bytes.length = x.val + 1) : Completed i s (loadRegs 0 bytes s).fallThrough
  | random (x : RegIdx) (kk b : Byte) (g : RandomSource) (hi : i = .rndVxKk x kk) :
      Completed i s ((s.setRng g).setReg x b).fallThrough
  | clear (hi : i = .cls) : Completed i s (s.setFb Framebuffer.clear).fallThrough
  | draw (x y : RegIdx) (n : BitVec 4) (f : Framebuffer) (b : Byte) (hi : i = .drwVxVyN x y n) :
      Completed i s ((s.setFb f).setReg vf b).fallThrough
  | index (a : Word) (hw : .index ∈ writes i) : Completed i s (s.setI a).fallThrough
  | delay (b : Byte) (hw : .delay ∈ writes i) : Completed i s (s.setDt b).fallThrough
  | store (bytes : List Byte) (hw : .memory ∈ writes i) (hlen : storedBytes i = bytes.length)
      (hroom : baseAddr s + bytes.length ≤ 4096) :
      Completed i s (s.setMem (putBytes s.mem (baseAddr s) bytes)).fallThrough
  | jump (addr : Addr12) (hi : i = .jpAddr addr) : Completed i s (s.setPc (addrValue addr))
  | call (addr : Addr12) (hi : i = .callAddr addr) (h : s.sp.val < 16) :
      Completed i s (State.setPc
        { s with stack := s.stack.set s.sp.val s.pc h, sp := ⟨s.sp.val + 1, by omega⟩ }
        (addrValue addr))
  | ret (hi : i = .ret) (h : 0 < s.sp.val) :
      Completed i s (State.setPc { s with sp := ⟨s.sp.val - 1, by omega⟩ }
        (s.stack[s.sp.val - 1] + 2))

/-- What executing `i` in `s` can answer: a state of `Completed`, or the entry of the one fault of
`i`. -/
inductive Answers (i : Instr) (s : State) : Result → Prop
  | completed {t : State} (h : Completed i s t) : Answers i s (.next t)
  | faulted {c : FaultCause} {a : Nat} (hc : executeFault i = some c.code.toNat)
      (ha : Reports c a) : Answers i s (.next (takeFault c (encode i) a s))

theorem reports_max {b : Nat} (h : b < 2 ^ 16) : Reports .memoryOutOfBounds (max b 4096) :=
  ⟨by omega, by omega⟩

theorem baseAddr_lt (s : State) : baseAddr s < 2 ^ 16 := s.iReg.isLt

/-- A read at I that fails reports an address above 4095. -/
theorem reports_of_readBytes {s : State} {count a : Nat}
    (h : readBytes s.mem (baseAddr s) count = .error a) : Reports .memoryOutOfBounds a := by
  rw [readBytes_eq] at h
  split at h
  · cases h
  · cases h; exact reports_max (baseAddr_lt s)

/-- A read that succeeds gives as many bytes as asked for. -/
theorem length_of_readBytes {m : Memory} {base count : Nat} {bytes : List Byte}
    (h : readBytes m base count = .ok bytes) : bytes.length = count := by
  rw [readBytes_eq] at h
  split at h
  · cases h; exact length_bytesFrom m base count
  · cases h

theorem answers_storeAtI {i : Instr} {bytes : List Byte} (s : State) (hw : .memory ∈ writes i)
    (hlen : storedBytes i = bytes.length) (hpos : 0 < bytes.length)
    (hc : executeFault i = some 2) : Answers i s (storeAtI i bytes s) := by
  rw [storeAtI_eq]
  split
  · exact .completed (.store bytes hw hlen (by omega))
  · exact .faulted hc (reports_max (baseAddr_lt s))

theorem answers_ret (s : State) : Answers .ret s (execRet s) := by
  unfold execRet
  split
  · exact .faulted rfl rfl
  · next hpop =>
    obtain ⟨h, rfl, rfl⟩ := pop_eq_some.1 hpop
    exact .completed (.ret rfl h)

theorem answers_callAddr (addr : Addr12) (s : State) :
    Answers (.callAddr addr) s (execCallAddr addr s) := by
  unfold execCallAddr
  split
  · exact .faulted rfl rfl
  · next hpush =>
    obtain ⟨h, rfl⟩ := push_eq_some.1 hpush
    exact .completed (.call addr rfl h)

theorem answers_drwVxVyN (x y : RegIdx) (n : BitVec 4) (s : State) :
    Answers (.drwVxVyN x y n) s (execDrwVxVyN x y n s) := by
  unfold execDrwVxVyN
  split
  · next h => exact .faulted rfl (reports_of_readBytes h)
  · exact .completed (.draw x y n _ _ rfl)

theorem answers_addIVx (x : RegIdx) (s : State) : Answers (.addIVx x) s (execAddIVx x s) := by
  unfold execAddIVx
  split
  · next h =>
    have hsum : indexSum s x < 2 ^ 17 := by
      have := s.iReg.isLt
      have := (s.reg x).isLt
      unfold indexSum
      omega
    exact .faulted rfl ⟨by omega, hsum⟩
  · exact .completed (.index _ (by simp [writes]))

theorem answers_ldVxMemI (x : RegIdx) (s : State) :
    Answers (.ldVxMemI x) s (execLdVxMemI x s) := by
  unfold execLdVxMemI
  split
  · next h => exact .faulted rfl (reports_of_readBytes h)
  · next h => exact .completed (.loadRange x _ rfl (length_of_readBytes h))

theorem answers_skpVx (x : RegIdx) (s : State) : Answers (.skpVx x) s (execSkpVx x s) := by
  unfold execSkpVx
  split
  · exact .faulted rfl rfl
  · exact .completed (.skip _)

theorem answers_sknpVx (x : RegIdx) (s : State) : Answers (.sknpVx x) s (execSknpVx x s) := by
  unfold execSknpVx
  split
  · exact .faulted rfl rfl
  · exact .completed (.skip _)

/-- Every instruction answers in every state, and only in these ways. -/
theorem exec_answers (i : Instr) (s : State) : Answers i s (exec i s) := by
  cases i with
  | cls => exact .completed (.clear rfl)
  | ret => exact answers_ret s
  | jpAddr addr => exact .completed (.jump addr rfl)
  | callAddr addr => exact answers_callAddr addr s
  | seVxKk | sneVxKk | seVxVy | sneVxVy => exact .completed (.skip _)
  | ldVxKk | addVxKk | ldVxVy | orVxVy | andVxVy | xorVxVy | ldVxDt =>
    exact .completed (.load _ _ rfl)
  | addVxVy | shrVxVy | shlVxVy => exact .completed (.loadWithFlag _ _ _ (.inl rfl) (.inr rfl))
  | ldIAddr | ldFVx => exact .completed (.index _ (by simp [writes]))
  | rndVxKk x kk => exact .completed (.random x kk _ _ rfl)
  | drwVxVyN x y n => exact answers_drwVxVyN x y n s
  | skpVx x => exact answers_skpVx x s
  | sknpVx x => exact answers_sknpVx x s
  | ldDtVx => exact .completed (.delay _ (by simp [writes]))
  | addIVx x => exact answers_addIVx x s
  | ldBVx x => exact answers_storeAtI s (by simp [writes]) rfl (by simp [length_bcdDigits]) rfl
  | ldMemIVx x => exact answers_storeAtI s (by simp [writes]) (by simp [storedBytes]) (by simp) rfl
  | ldVxMemI x => exact answers_ldVxMemI x s

/-- If an instruction answers a next state, it took its fault or completed. -/
theorem exec_cases {i : Instr} {s t : State} (h : exec i s = .next t) :
    (∃ c a, executeFault i = some c.code.toNat ∧ Reports c a ∧ t = takeFault c (encode i) a s) ∨
      Completed i s t := by
  have ha := exec_answers i s
  rw [h] at ha
  cases ha with
  | completed hd => exact .inr hd
  | faulted hc hr => exact .inl ⟨_, _, hc, hr, rfl⟩

namespace Completed

variable {i : Instr} {s t : State}

/-- A completed instruction changes no part its row does not give as written. -/
theorem kept (h : Completed i s t) : Kept (writes i) s t := by
  have hpc : .pc ∈ writes i := pc_mem_writes i
  cases h with
  | skip taken => exact kept_skipIf hpc taken
  | load x b hx => exact (kept_setReg (regs_mem_writes hx) x b).trans (kept_fallThrough hpc)
  | loadWithFlag x b f hx =>
    exact (kept_setRegFlag (regs_mem_writes hx) x b f).trans (kept_fallThrough hpc)
  | loadRange x bytes hi =>
    subst hi
    exact (kept_loadRegs (by simp [writes]) 0 bytes s).trans (kept_fallThrough hpc)
  | random x kk b g hi =>
    subst hi
    exact ((kept_setRng (by simp [writes]) g).trans (kept_setReg (by simp [writes]) x b)).trans
      (kept_fallThrough hpc)
  | clear hi =>
    subst hi
    exact (kept_setFb (by simp [writes]) _).trans (kept_fallThrough hpc)
  | draw x y n f b hi =>
    subst hi
    exact ((kept_setFb (by simp [writes]) f).trans (kept_setReg (by simp [writes]) vf b)).trans
      (kept_fallThrough hpc)
  | index a hw => exact (kept_setI hw a).trans (kept_fallThrough hpc)
  | delay b hw => exact (kept_setDt hw b).trans (kept_fallThrough hpc)
  | store bytes hw => exact (kept_setMem hw _).trans (kept_fallThrough hpc)
  | jump addr => exact kept_setPc hpc _
  | call addr hi =>
    subst hi
    exact (kept_setCallStack (by simp [writes]) _ _).trans (kept_setPc hpc _)
  | ret hi =>
    subst hi
    exact (kept_setCallStack (by simp [writes]) _ s.stack).trans (kept_setPc hpc _)

theorem control (h : Completed i s t) : Part.control.same s t :=
  h.kept .control (control_notMem_writes i)

/-- A completed instruction changes no register but its destinations. -/
theorem regsKept (h : Completed i s t) : RegsKept (destination i) s t := by
  intro r hr
  cases h with
  | load x b hx =>
    have hne : r ≠ x := fun e => hr (e ▸ hx)
    simp [hne]
  | loadWithFlag x b f hx hf =>
    have hne : r ≠ x := fun e => hr (e ▸ hx)
    have hnf : r ≠ vf := fun e => hr (e ▸ hf)
    simp [hne, hnf]
  | loadRange x bytes hi hlen =>
    subst hi
    have hlt : x.val < r.val := Nat.lt_of_not_le hr
    rw [reg_fallThrough, reg_loadRegs bytes 0 s r (by omega), dif_neg (by omega)]
  | random x kk b g hi =>
    subst hi
    have hne : r ≠ x := hr
    simp [hne]
  | draw x y n f b hi =>
    subst hi
    have hne : r ≠ vf := hr
    simp [hne]
  | skip taken => exact reg_skipIf s taken r
  | clear | index | delay | store | jump | call | ret => rfl

/-- A completed instruction leaves memory as it is, or stores its bytes at I, where they fit. -/
theorem mem_cases (h : Completed i s t) :
    t.mem = s.mem ∨ ∃ bytes : List Byte, storedBytes i = bytes.length ∧
      baseAddr s + bytes.length ≤ 4096 ∧ t.mem = putBytes s.mem (baseAddr s) bytes := by
  cases h with
  | store bytes hw hlen hroom => exact .inr ⟨bytes, hlen, hroom, rfl⟩
  | skip taken => exact .inl (mem_skipIf s taken)
  | loadRange x bytes => exact .inl (mem_loadRegs 0 bytes s)
  | load | loadWithFlag | random | clear | draw | index | delay | jump | call | ret =>
    exact .inl rfl

theorem bytesKept (h : Completed i s t) : BytesKept (baseAddr s) (storedBytes i) s t := by
  intro a ha
  obtain hm | ⟨bytes, hlen, -, hm⟩ := h.mem_cases
  · rw [hm]
  · rw [hm, byteAt_putBytes_of_outside bytes s.mem (by omega)]

/-- A completed instruction keeps the canonical form of memory. -/
theorem mem_wf (h : Completed i s t) (hwf : s.mem.wf) : t.mem.wf := by
  obtain hm | ⟨bytes, -, hroom, hm⟩ := h.mem_cases
  · rwa [hm]
  · rw [hm]; exact wf_putBytes bytes hwf hroom

/-- PC after a completed instruction (spec/40_step_cycle.md R124). -/
theorem pc_cases (h : Completed i s t) :
    t.pc = s.pc + 2 ∨ t.pc = s.pc + 4 ∨
      (∃ addr, (i = .jpAddr addr ∨ i = .callAddr addr) ∧ t.pc = addrValue addr) ∨
      (i = .ret ∧ ∃ _ : 0 < s.sp.val, t.pc = s.stack[s.sp.val - 1] + 2) := by
  cases h with
  | skip taken =>
    cases taken
    · exact .inl rfl
    · exact .inr (.inl rfl)
  | jump addr hi => exact .inr (.inr (.inl ⟨addr, .inl hi, rfl⟩))
  | call addr hi => exact .inr (.inr (.inl ⟨addr, .inr hi, rfl⟩))
  | ret hi h => exact .inr (.inr (.inr ⟨hi, h, rfl⟩))
  | loadRange x bytes => exact .inl (by simp)
  | load | loadWithFlag | random | clear | draw | index | delay | store => exact .inl rfl

/-- A completed instruction leaves the call-stack slots as they are, or pushes PC. -/
theorem stack_cases (h : Completed i s t) :
    t.stack = s.stack ∨ ∃ hsp : s.sp.val < 16, t.stack = s.stack.set s.sp.val s.pc hsp := by
  cases h with
  | call addr hi hsp => exact .inr ⟨hsp, rfl⟩
  | skip taken => exact .inl (stack_skipIf s taken)
  | loadRange x bytes => exact .inl (stack_loadRegs 0 bytes s)
  | load | loadWithFlag | random | clear | draw | index | delay | store | jump | ret =>
    exact .inl rfl

end Completed

/-! ## What a step can do -/

/-- The states a step can leave, by the phase it ends in (spec/40_step_cycle.md R121, R127). -/
inductive Stepped (s : State) : State → Prop
  | halted (hm : s.mode = .halt) : Stepped s (haltedStep s)
  | fetchFault (hm : s.mode = .run) (hpc : 4095 ≤ s.pc.toNat) :
      Stepped s (fetchFault (max s.pc.toNat 4096) s)
  | decodeFault {e : Illegal} (hm : s.mode = .run) (hpc : s.pc.toNat < 4095)
      (hd : decode (wordAt s) = .error e) : Stepped s (decodeFault (wordAt s) s)
  | executeFault {i : Instr} {c : FaultCause} {a : Nat} (hm : s.mode = .run)
      (hpc : s.pc.toNat < 4095) (hd : decode (wordAt s) = .ok i)
      (hc : executeFault i = some c.code.toNat) (ha : Reports c a) :
      Stepped s (takeFault c (encode i) a s)
  | completed {i : Instr} {u : State} (hm : s.mode = .run) (hpc : s.pc.toNat < 4095)
      (hd : decode (wordAt s) = .ok i) (hu : Completed i s u) : Stepped s (tick u)

theorem fetch_of_lt {s : State} (h : s.pc.toNat < 4095) : fetch s = .ok (wordAt s) := by
  rw [fetch_eq, if_pos h]; rfl

/-- If a step answers a next state, it is one of `Stepped`. -/
theorem step_cases {s t : State} (h : step s = .next t) : Stepped s t := by
  cases hm : s.mode with
  | halt =>
    rw [step_of_halt hm] at h
    cases h
    exact .halted hm
  | run =>
    obtain ⟨hpc, hs⟩ | ⟨hpc, w, hw, hs⟩ := step_of_run hm
    · rw [hs] at h
      cases h
      exact .fetchFault hm hpc
    obtain rfl : wordAt s = w := by rw [fetch_of_lt hpc] at hw; cases hw; rfl
    obtain ⟨e, hd, hs⟩ | ⟨i, hd, hs⟩ := hs
    · rw [hs] at h
      cases h
      exact .decodeFault hm hpc hd
    cases hx : exec i s with
    | fault r => rw [hs, hx] at h; cases h
    | refused r => rw [hs, hx] at h; cases h
    | next u =>
      rw [hs, hx] at h
      cases h
      obtain ⟨c, a, hc, ha, rfl⟩ | hu := exec_cases hx
      · exact .executeFault hm hpc hd hc ha
      · have hrun : u.mode = .run := hu.control.1.trans hm
        rw [afterExecute_coupled, if_neg (by simp [hrun])]
        exact .completed hm hpc hd hu

/-- A part other than the timers, the ports and the control state changes only in a step in RUN
whose instruction writes it. -/
theorem mem_writes_of_step {s t : State} {p : Part} (h : step s = .next t)
    (hp : p ∉ [.delay, .sound, .control, .ports]) (hne : ¬ p.same s t) :
    s.mode = .run ∧ ∃ i, decode (wordAt s) = .ok i ∧ p ∈ writes i := by
  cases step_cases h with
  | halted => exact absurd (kept_setBeep (by simp) _ p hp) hne
  | fetchFault | decodeFault | executeFault =>
    exact absurd (kept_takeFault (by simp) (by simp) _ _ _ p hp) hne
  | @completed i u hm hpc hd hu =>
    refine ⟨hm, i, hd, ?_⟩
    by_contra hw
    have hsu : Kept ([.delay, .sound, .ports] ++ writes i) s u :=
      hu.kept.mono (List.subset_append_right _ _)
    have hst := hsu.trans (kept_tick (by simp) (by simp) (by simp))
    exact hne (hst p (by simp_all))

/-- Settles O56: of the parts an instruction can write, only RND writes the random source. -/
theorem onlyRndAdvancesTheRandomSource : Obligations.OnlyRndAdvancesTheRandomSource := by
  intro s t h hne
  obtain ⟨hm, i, hd, hw⟩ := mem_writes_of_step (p := .random) h (by simp) hne
  obtain ⟨x, kk, rfl⟩ := random_mem_writes.1 hw
  exact ⟨hm, x, kk, hd⟩

/-- Settles O57: only CLS and DRW write the framebuffer, only CALL and RET the call stack. -/
theorem framebufferAndCallStackHaveTheirOwnInstructions :
    Obligations.FramebufferAndCallStackHaveTheirOwnInstructions := by
  intro s t h
  constructor
  · intro hne
    obtain ⟨-, i, hd, hw⟩ := mem_writes_of_step h (by simp) hne
    obtain rfl | ⟨x, y, n, rfl⟩ := frame_mem_writes.1 hw
    · exact .inl hd
    · exact .inr ⟨x, y, n, hd⟩
  · intro hne
    obtain ⟨-, i, hd, hw⟩ := mem_writes_of_step h (by simp) hne
    obtain rfl | ⟨addr, rfl⟩ := callStack_mem_writes.1 hw
    · exact .inl hd
    · exact .inr ⟨addr, hd⟩

theorem eq_zero_of_reports {c : FaultCause} {a : Nat} (h : Reports c a)
    (hc : c ≠ .memoryOutOfBounds) : a = 0 := by
  cases c with
  | memoryOutOfBounds => exact absurd rfl hc
  | decodeFailure | stackOverflow | stackUnderflow | keyIndexOutOfRange => exact h

/-- Every reported address fits the 17 bits of FADDR. -/
theorem reports_lt {c : FaultCause} {a : Nat} (h : Reports c a) : a < 2 ^ 17 := by
  by_cases hc : c = .memoryOutOfBounds
  · subst hc; exact h.2
  · have := eq_zero_of_reports h hc
    omega

theorem faultEntry_takeFault (c : FaultCause) (w : Word) {a : Nat} (ha : a < 2 ^ 17) (s : State) :
    FaultEntry c.code.toNat w a s (takeFault c w a s) := by
  have haddr : (takeFault c w a s).faddr.toNat = a := by simpa using Nat.mod_eq_of_lt ha
  exact ⟨rfl, rfl, rfl, haddr, rfl, rfl, rfl, kept_takeFault (by simp) (by simp) c w a⟩

/-- Settles O52: an instruction takes its fault, or completes and keeps what its row does not
write. -/
theorem instructionsWriteOnlyTheirRow : Obligations.InstructionsWriteOnlyTheirRow := by
  intro i s t hm h
  obtain ⟨c, a, hc, ha, rfl⟩ | hd := exec_cases h
  · exact .inl ⟨c.code.toNat, a, hc, faultEntry_takeFault c _ (reports_lt ha) s⟩
  · exact .inr ⟨hd.control.1.trans hm, hd.kept, hd.regsKept, hd.bytesKept⟩

/-! ## The invariant (spec/10_state.md R23, R33) -/

theorem code_bounds (c : FaultCause) : 1 ≤ c.code.toNat ∧ c.code.toNat ≤ 5 := by
  cases c <;> decide

theorem code_eq_two {c : FaultCause} : c.code = 2 ↔ c = .memoryOutOfBounds := by
  cases c <;> decide

/-- A fault entry keeps the invariant. -/
theorem inv_takeFault {c : FaultCause} {a : Nat} {s : State} (h : s.inv) (w : Word)
    (ha : Reports c a) : (takeFault c w a s).inv := by
  obtain ⟨hmem, -, -, hpc, hstack⟩ := h
  refine ⟨hmem, nofun, fun _ => ⟨code_bounds c, rfl, ?_, ?_⟩, hpc, hstack⟩
  · intro hcode
    obtain rfl := code_eq_two.1 hcode
    rw [faddr_takeFault, BitVec.toNat_ofNat, Nat.mod_eq_of_lt (reports_lt ha)]
    exact ha.1
  · intro hcode
    have hc : c ≠ .memoryOutOfBounds := fun e => hcode (code_eq_two.2 e)
    rw [faddr_takeFault, eq_zero_of_reports ha hc]
    rfl

namespace Completed

variable {i : Instr} {s t : State}

/-- PC stays at most 0x1002 (spec/10_state.md R23): a skip at 0xFFE reaches it. -/
theorem pcBounded (h : Completed i s t) (hpc : s.pc.toNat < 4095) (hstack : s.stackBounded) :
    t.pcBounded := by
  unfold State.pcBounded
  obtain e | e | ⟨addr, -, e⟩ | ⟨-, hsp, e⟩ := h.pc_cases <;> rw [e]
  · bv_omega
  · bv_omega
  · have := addr.isLt
    simp only [addrValue, BitVec.toNat_setWidth]; omega
  · have hslot : (s.stack[s.sp.val - 1]).toNat ≤ 0xFFE := hstack ⟨s.sp.val - 1, by omega⟩
    bv_omega

/-- A pushed address is one an instruction was fetched from, at most 0xFFE. -/
theorem stackBounded (h : Completed i s t) (hpc : s.pc.toNat < 4095) (hstack : s.stackBounded) :
    t.stackBounded := by
  obtain e | ⟨hsp, e⟩ := h.stack_cases
  · unfold State.stackBounded; rwa [e]
  · intro k
    simp only [e, Vector.getElem_set]
    split
    · omega
    · exact hstack k

/-- A completed instruction keeps the invariant. -/
theorem inv (h : Completed i s t) (hs : s.inv) (hm : s.mode = .run) (hpc : s.pc.toNat < 4095) :
    t.inv := by
  obtain ⟨hmem, hclear, -, -, hstack⟩ := hs
  obtain ⟨hmode, hcause, hopcode, hfpc, hfaddr⟩ := h.control
  have hrun : t.mode = .run := hmode.trans hm
  refine ⟨h.mem_wf hmem, fun _ => ?_, fun hhalt => ?_, h.pcBounded hpc hstack,
    h.stackBounded hpc hstack⟩
  · rw [hcause, hopcode, hfpc, hfaddr]; exact hclear hm
  · rw [hrun] at hhalt; cases hhalt

end Completed

/-- Settles O3, phase by phase: a fault records what the invariant asks, a completed instruction
keeps each of its parts, and the tick touches none. -/
theorem stepKeepsTheInvariant : Obligations.StepKeepsTheInvariant := by
  intro s t hs h
  cases step_cases h with
  | halted => exact hs
  | fetchFault => exact inv_takeFault hs _ (reports_max s.pc.isLt)
  | decodeFault => exact inv_takeFault hs _ rfl
  | executeFault _ _ _ _ ha => exact inv_takeFault hs _ ha
  | @completed i u hm hpc hd hu =>
    have hinv : u.inv := hu.inv hs hm hpc
    exact hinv

/-- Settles O2: reset lists no byte of memory, is in RUN, and has every slot 0. -/
theorem resetHasTheInvariant : Obligations.ResetHasTheInvariant := by
  refine ⟨⟨.nil, nofun⟩, fun _ => ⟨rfl, rfl, rfl, rfl⟩, nofun, by decide, fun k => ?_⟩
  simp [State.reset]

/-- A load keeps the invariant: a program that is accepted ends below 4096. -/
theorem inv_loadProgram {s : State} (h : s.inv) (bytes : List Byte) :
    (loadProgram bytes s).2.inv := by
  unfold loadProgram
  split
  · exact h
  · next hlen =>
    obtain ⟨hmem, hrest⟩ := h
    have hroom : 0x200 + bytes.length ≤ 4096 := by
      have : bytes.length ≤ 3584 := Nat.le_of_not_lt hlen
      omega
    exact ⟨wf_putBytes bytes hmem hroom, hrest⟩

theorem inv_hostEvent {e : HostEvent} {s t : State} (hs : s.inv) (h : hostEvent e s = .next t) :
    t.inv := by
  cases e with
  | reset => cases h; exact resetHasTheInvariant
  | load bytes => cases h; exact inv_loadProgram hs bytes
  | step keys => exact stepKeepsTheInvariant (s.setKeys keys) t hs h
  | tick => cases h; exact hs

/-- Settles O4, by induction on the events. -/
theorem hostRunKeepsTheInvariant : Obligations.HostRunKeepsTheInvariant := by
  intro es
  induction es with
  | nil => intro s t hs h; cases h; exact hs
  | cons e rest ih =>
    intro s t hs h
    cases he : hostEvent e s with
    | next u =>
      rw [hostRun, he] at h
      exact ih u t (inv_hostEvent hs he) h
    | fault r => rw [hostRun, he] at h; cases h
    | refused r => rw [hostRun, he] at h; cases h

/-! ## The keypad input (spec/10_state.md R34) -/

/-- An answer with the keypad input set in its next state. -/
def withKeys (k : Word) : Result → Result
  | .next s => .next (s.setKeys k)
  | .fault f => .fault f
  | .refused r => .refused r

section Keys

variable (s : State) (k : Word)

/-! Operation by operation, setting the keypad input first or last is the same. -/

theorem skipIf_setKeys (taken : Bool) :
    (s.setKeys k).skipIf taken = (s.skipIf taken).setKeys k := by
  cases taken <;> rfl

theorem loadRegs_setKeys (n : Nat) (bytes : List Byte) :
    loadRegs n bytes (s.setKeys k) = (loadRegs n bytes s).setKeys k := by
  induction bytes generalizing n s with
  | nil => rfl
  | cons b rest ih => exact ih (s.setReg (Fin.ofNat 16 n) b) (n + 1)

theorem storeAtI_setKeys (i : Instr) (bytes : List Byte) :
    storeAtI i bytes (s.setKeys k) = withKeys k (storeAtI i bytes s) := by
  have hbase : baseAddr (s.setKeys k) = baseAddr s := rfl
  rw [storeAtI_eq, storeAtI_eq, hbase]
  split <;> rfl

theorem push_setKeys (a : Word) : push a (s.setKeys k) = (push a s).map (·.setKeys k) := by
  cases h : push a s with
  | none => exact push_eq_none.2 (push_eq_none (s := s).1 h)
  | some t =>
    obtain ⟨hsp, rfl⟩ := push_eq_some.1 h
    exact push_eq_some.2 ⟨hsp, rfl⟩

theorem pop_setKeys : pop (s.setKeys k) = (pop s).map fun p => (p.1, p.2.setKeys k) := by
  cases h : pop s with
  | none => exact pop_eq_none.2 (pop_eq_none (s := s).1 h)
  | some p =>
    obtain ⟨hsp, ha, ht⟩ := pop_eq_some.1 h
    exact pop_eq_some.2 ⟨hsp, ha, by rw [ht]; rfl⟩

theorem execRet_setKeys : execRet (s.setKeys k) = withKeys k (execRet s) := by
  unfold execRet
  rw [pop_setKeys]
  cases pop s <;> rfl

theorem execCallAddr_setKeys (addr : Addr12) :
    execCallAddr addr (s.setKeys k) = withKeys k (execCallAddr addr s) := by
  unfold execCallAddr
  rw [push_setKeys, pc_setKeys]
  cases push s.pc s <;> rfl

theorem execDrwVxVyN_setKeys (x y : RegIdx) (n : BitVec 4) :
    execDrwVxVyN x y n (s.setKeys k) = withKeys k (execDrwVxVyN x y n s) := by
  have hrows : spriteRows (s.setKeys k) n = spriteRows s n := rfl
  unfold execDrwVxVyN
  rw [hrows]
  cases spriteRows s n <;> rfl

theorem execAddIVx_setKeys (x : RegIdx) :
    execAddIVx x (s.setKeys k) = withKeys k (execAddIVx x s) := by
  have hsum : indexSum (s.setKeys k) x = indexSum s x := rfl
  unfold execAddIVx
  rw [hsum]
  split <;> rfl

theorem execLdVxMemI_setKeys (x : RegIdx) :
    execLdVxMemI x (s.setKeys k) = withKeys k (execLdVxMemI x s) := by
  have hbase : baseAddr (s.setKeys k) = baseAddr s := rfl
  unfold execLdVxMemI
  rw [hbase, mem_setKeys]
  cases readBytes s.mem (baseAddr s) (x.val + 1) with
  | error a => rfl
  | ok bytes => simp only [loadRegs_setKeys]; rfl

/-- An instruction other than SKP and SKNP does the same for every keypad input. -/
theorem exec_setKeys {i : Instr} (hi : ∀ x, i ≠ .skpVx x ∧ i ≠ .sknpVx x) :
    exec i (s.setKeys k) = withKeys k (exec i s) := by
  cases i with
  | ret => exact execRet_setKeys s k
  | callAddr addr => exact execCallAddr_setKeys s k addr
  | seVxKk | sneVxKk | seVxVy | sneVxVy => exact congrArg Host.Outcome.next (skipIf_setKeys s k _)
  | drwVxVyN x y n => exact execDrwVxVyN_setKeys s k x y n
  | addIVx x => exact execAddIVx_setKeys s k x
  | ldBVx x => exact storeAtI_setKeys s k _ _
  | ldMemIVx x => exact storeAtI_setKeys s k _ _
  | ldVxMemI x => exact execLdVxMemI_setKeys s k x
  | skpVx x => exact absurd rfl (hi x).1
  | sknpVx x => exact absurd rfl (hi x).2
  | cls | jpAddr | ldVxKk | addVxKk | ldVxVy | orVxVy | andVxVy | xorVxVy | addVxVy | shrVxVy
  | shlVxVy | ldIAddr | rndVxKk | ldVxDt | ldDtVx | ldFVx => rfl

end Keys

/-- Settles O55: the keypad input passes through unread. -/
theorem onlyKeypadSkipsReadTheKeypad : Obligations.OnlyKeypadSkipsReadTheKeypad := by
  intro i s t keys hi h
  rw [exec_setKeys s keys hi, h]
  rfl

/-! ## Reset (spec/10_state.md R38) -/

theorem resetByte_of_lt {a : Nat} (h : a < 80) : Config.resetByte a = Config.font.getD a 0 :=
  if_pos h

theorem resetByte_of_le {a : Nat} (h : 80 ≤ a) : Config.resetByte a = 0 :=
  if_neg (Nat.not_lt.2 h)

/-- Settles O1: every field of the reset state is a constant; memory lists nothing and
so reads as its reset contents. -/
theorem resetLeavesTheStatedValues : Obligations.ResetLeavesTheStatedValues := by
  intro s
  refine ⟨State.reset, rfl, fun r => ?_, rfl, rfl, rfl, fun k hk => ?_, fun a => resetByte_of_lt,
    fun a ha _ => resetByte_of_le ha, fun c _ => cell_clear c, rfl, rfl, rfl, rfl, rfl, rfl, rfl⟩
  · simp [State.reg, State.reset]
  · have hslots : State.reset.stack.toList = List.replicate 16 0 := rfl
    rw [slot, hslots, List.getD_replicate _ hk]

end Sys2Proof.Claims

/-! # Memory: one-byte accesses, load, and words placed or stored where the next step fetches

Proofs for the statements over spec/20_memory.md. That a fetch reads what was last written at PC is
said once (`wordAt_of_putBytes`); a word placed by the host and a store by the program are both read
off it. -/

namespace Sys2Proof.Claims

open Sys2Proof Sys2Proof.Machine

/-! ## One byte (R62, R63) -/

theorem readBytes_one_of_le (m : Memory) {a : Nat} (h : a ≤ 4095) :
    readBytes m a 1 = .ok [m.byteAt a] := by
  rw [readBytes_eq, if_pos (by omega)]; rfl

theorem readBytes_one_of_lt (m : Memory) {a : Nat} (h : 4095 < a) :
    readBytes m a 1 = .error a := by
  rw [readBytes_eq, if_neg (by omega), max_eq_left h]

theorem writeBytes_one_of_le (m : Memory) {a : Nat} (v : Byte) (h : a ≤ 4095) :
    writeBytes m a [v] = .ok (m.put a v) := by
  rw [writeBytes_eq, if_pos (by simp; omega)]; rfl

theorem writeBytes_one_of_lt (m : Memory) {a : Nat} (v : Byte) (h : 4095 < a) :
    writeBytes m a [v] = .error a := by
  rw [writeBytes_eq, if_neg (by simp; omega), max_eq_left h]

/-- Settles O43: the two sides of the bounds check, and `put` for a byte within it. -/
theorem oneByteAccessesAreCheckedAndLocal : Obligations.OneByteAccessesAreCheckedAndLocal := by
  intro m a v
  constructor
  · intro h
    exact ⟨readBytes_one_of_lt m h, writeBytes_one_of_lt m v h⟩
  · intro h
    exact ⟨readBytes_one_of_le m h, m.put a v, writeBytes_one_of_le m v h,
      fun hwf => ⟨wf_put hwf (by omega) v, byteAt_put_self hwf a v⟩,
      fun b hb => byteAt_put_of_ne m v hb⟩

/-! ## Load (R73) -/

theorem loadProgram_of_lt {bytes : List Byte} (h : 3584 < bytes.length) (s : State) :
    loadProgram bytes s = (.programTooLarge, s) := if_pos h

theorem loadProgram_of_le {bytes : List Byte} (h : bytes.length ≤ 3584) (s : State) :
    loadProgram bytes s = (.accepted, s.setMem (putBytes s.mem 0x200 bytes)) :=
  if_neg (Nat.not_lt.2 h)

/-- The host's load leaves the state `loadProgram` answers. -/
theorem hostEvent_load (bytes : List Byte) (s : State) :
    hostEvent (.load bytes) s = .next (loadProgram bytes s).2 := rfl

/-- Settles O6, by the program's length: refused as a whole, or one write of all its bytes. -/
theorem loadCopiesOrRefuses : Obligations.LoadCopiesOrRefuses := by
  intro bytes s
  constructor
  · intro h
    rw [hostEvent_load, loadProgram_of_lt h]
    exact ⟨rfl, rfl⟩
  · intro h
    rw [hostEvent_load, loadProgram_of_le h]
    refine ⟨s.setMem (putBytes s.mem 0x200 bytes), rfl, rfl, fun hwf k hk => ?_, fun a ha => ?_,
      kept_setMem (by simp) _⟩
    · rw [List.getD_eq_getElem bytes 0 hk]
      exact byteAt_putBytes_inside bytes 0x200 k hwf.1 hk
    · exact byteAt_putBytes_of_outside bytes s.mem ha

/-! ## What a fetch reads after a write at PC (R64, R66) -/

/-- The word at PC, when memory was last written from PC upwards, is the first two bytes written. -/
theorem wordAt_of_putBytes {m : Memory} {bytes : List Byte} {t : State} (hwf : m.wf)
    (hlen : 1 < bytes.length) (ht : t.mem = putBytes m t.pc.toNat bytes) :
    wordAt t = joinBytes bytes[0] bytes[1] := by
  have hhi : t.mem.byteAt t.pc.toNat = bytes[0] := by
    rw [ht]; exact byteAt_putBytes_inside bytes _ 0 hwf.1 (by omega)
  have hlo : t.mem.byteAt (t.pc.toNat + 1) = bytes[1] := by
    rw [ht]; exact byteAt_putBytes_inside bytes _ 1 hwf.1 hlen
  rw [wordAt, hhi, hlo]; rfl

/-! ## A store to code (R72) -/

@[simp] theorem getElem_regRange (s : State) (x : RegIdx) (k : Nat)
    (h : k < (regRange s x).length) : (regRange s x)[k] = s.reg (Fin.ofNat 16 k) := by
  simp [regRange]

/-- LD [I],Vx whose bytes lie within memory stores them. -/
theorem execLdMemIVx_of_le {x : RegIdx} {s : State} (h : s.iReg.toNat + x.val ≤ 4095) :
    exec (.ldMemIVx x) s =
      .next (s.setMem (putBytes s.mem s.iReg.toNat (regRange s x))).fallThrough := by
  have hroom : baseAddr s + (regRange s x).length ≤ 4096 := by
    rw [length_regRange, baseAddr]; omega
  exact (storeAtI_eq _ _ s).trans (if_pos (.inr hroom))

/-- Settles O44: the store begins where the next fetch does, so its first two registers are read. -/
theorem storeToCodeIsFetchedNext : Obligations.StoreToCodeIsFetchedNext := by
  intro x s hwf hx hroom hnext
  have hpc : (s.pc + 2).toNat = s.iReg.toNat := by bv_omega
  refine ⟨_, execLdMemIVx_of_le hroom, ?_⟩
  beta_reduce
  rw [fetch_of_lt, wordAt_of_putBytes (bytes := regRange s x) hwf, getElem_regRange,
    getElem_regRange]
  · rfl
  · rw [length_regRange]; omega
  · rw [mem_fallThrough, mem_setMem, pc_fallThrough, pc_setMem, hpc]
  · rw [pc_fallThrough, pc_setMem, hpc]; omega

/-! ## A word placed by the host (R64, R121, notes/assumptions/13.md) -/

/-- The word of an instruction is decoded as that instruction (spec/30_encoding.md R94): the fields
the encoder writes are the ones the decoder reads. -/
theorem decode_encode (i : Instr) : decode (encode i) = .ok i := by
  cases i with
  | cls | ret => rfl
  | jpAddr | callAddr | ldIAddr => simp [encode, decode]
  | seVxKk | sneVxKk | ldVxKk | addVxKk | rndVxKk => simp [encode, decode]
  | seVxVy | sneVxVy | drwVxVyN => simp [encode, decode]
  | ldVxVy | orVxVy | andVxVy | xorVxVy | addVxVy | shrVxVy | shlVxVy =>
    simp [encode, decode, decodeOp8]
  | skpVx | sknpVx => simp [encode, decode, decodeOpE]
  | ldVxDt | ldDtVx | addIVx | ldFVx | ldBVx | ldMemIVx | ldVxMemI =>
    simp [encode, decode, decodeOpF]

/-- All 16 bits of a word, as a word of the opcode table, are the word. -/
theorem tableWord_toNat (w : Word) : tableWord 16 w.toNat = w := by
  rw [tableWord, Nat.mod_eq_of_lt w.isLt, BitVec.ofNat_toNat, BitVec.setWidth_eq]

section Running

variable (s : State)

@[simp] theorem mode_running : s.running.mode = .run := by
  unfold State.running
  split
  · assumption
  · rfl

@[simp] theorem pc_running : s.running.pc = s.pc := by
  unfold State.running
  split <;> rfl

@[simp] theorem mem_running : s.running.mem = s.mem := by
  unfold State.running
  split <;> rfl

end Running

/-- Two bytes fit where a word is placed. -/
theorem fetchRoom_lt (s : State) : (fetchRoom s).toNat < 4095 := by
  unfold fetchRoom
  split
  · omega
  · decide

section PlaceWord

variable (s : State) (w : Word)

@[simp] theorem mode_placeWord : (placeWord s w).mode = .run := mode_running _

@[simp] theorem pc_placeWord : (placeWord s w).pc = fetchRoom s := by simp [placeWord]

@[simp] theorem mem_placeWord : (placeWord s w).mem =
    putBytes s.mem (fetchRoom s).toNat [highByte w, lowByte w] := by simp [placeWord]

end PlaceWord

/-- A placed word is the word at PC. -/
theorem wordAt_placeWord {s : State} (hwf : s.mem.wf) (w : Word) : wordAt (placeWord s w) = w := by
  rw [wordAt_of_putBytes hwf (bytes := [highByte w, lowByte w]) (by simp) (by simp)]
  exact joinBytes_highByte_lowByte w

theorem toNat_countDown (b : Byte) : (countDown b).toNat = b.toNat - 1 := by
  unfold countDown
  split <;> bv_omega

/-- Tick counts both timers down and sets the beep when ST was 1 (spec/60_exceptions.md R263). -/
theorem ticked_tick (s : State) : Ticked s (tick s) := by
  have hbeep : (tick s).beep = true ↔ s.st.toNat = 1 := by
    rw [beep_tick, decide_eq_true_iff, ← BitVec.toNat_inj]; rfl
  exact ⟨toNat_countDown s.dt, toNat_countDown s.st, hbeep, rfl,
    kept_tick (by simp) (by simp) (by simp)⟩

/-- Every instruction answers a next state (spec/40_step_cycle.md R126). -/
theorem exists_exec_eq_next (i : Instr) (s : State) : ∃ t, exec i s = .next t := by
  have h := exec_answers i s
  generalize exec i s = r at h ⊢
  cases h with
  | completed | faulted => exact ⟨_, rfl⟩

/-- A step in RUN runs the instruction its word decodes to, then ticks unless that took a fault
(spec/40_step_cycle.md R121, R125). -/
theorem step_of_decode {s : State} {i : Instr} (hm : s.mode = .run) (hpc : s.pc.toNat < 4095)
    (hd : decode (wordAt s) = .ok i) : step s = finishStep .coupled (exec i s) := by
  rw [step, hm]
  simp only [runStep, fetch_of_lt hpc, hd, Config.tickMode]

/-- The end of a coupled step (spec/40_step_cycle.md R125). -/
theorem stepEnds_finishStep (t : State) : StepEnds t (finishStep .coupled (.next t)) := by
  rw [finishStep, afterExecute_coupled]
  constructor
  · intro hhalt
    rw [if_pos hhalt]
  · intro hrun
    rw [if_neg (by simp [hrun])]
    exact ⟨tick t, rfl, ticked_tick t⟩

/-- A step in RUN whose word at PC is an instruction is its execute phase and the end of the step. -/
theorem completes_stepEnds {s : State} {i : Instr} (hm : s.mode = .run) (hpc : s.pc.toNat < 4095)
    (hd : decode (wordAt s) = .ok i) : Completes i s fun t => StepEnds t (step s) := by
  obtain ⟨t, ht⟩ := exists_exec_eq_next i s
  refine ⟨t, ht, ?_⟩
  rw [step_of_decode hm hpc hd, ht]
  exact stepEnds_finishStep t

/-- Settles O15: the placed word lies at PC, in RUN, and decodes to the instruction it encodes. -/
theorem placedWordIsTheNextToRun : Obligations.PlacedWordIsTheNextToRun := by
  intro s i hwf
  rw [State.withFetchWord, tableWord_toNat]
  refine completes_stepEnds (mode_placeWord s _) ?_ ?_
  · rw [pc_placeWord]; exact fetchRoom_lt s
  · rw [wordAt_placeWord hwf, decode_encode]

end Sys2Proof.Claims

/-! # Encoding: the decoder, the encoder, the opcode map and the assembler

Proofs for the statements over spec/30_encoding.md. Which words are illegal is said once, on the four
nibbles (`fails_decode`); the groups of R97 and the count of R94 are read off it. -/

namespace Sys2Proof.Claims

open Sys2Proof Sys2Proof.Machine

/-! ## Decode and encode are inverse (R92, R94, R98) -/

/-- Settles O18: the decoder reads the fields the encoder writes. -/
theorem decodeOfEncodeIsTheInstruction : Obligations.DecodeOfEncodeIsTheInstruction :=
  decode_encode

section Inverse

variable {w : Word} {op : Nat}

theorem wordAddr_of_fields (hop : opField w = op) : wordAddr op (addrField w) = w := by
  subst hop; exact wordAddr_fields w

theorem wordXKK_of_fields {kk : Byte} (hop : opField w = op) (hkk : kkField w = kk) :
    wordXKK op (xField w) kk = w := by
  subst hop hkk; exact wordXKK_fields w

theorem wordXYN_of_fields {n : BitVec 4} (hop : opField w = op) (hn : nField w = n) :
    wordXYN op (xField w) (yField w) n = w := by
  subst hop hn; exact wordXYN_fields w

variable {i : Instr}

theorem encode_of_decodeOp0 (h : decodeOp0 w = .ok i) : encode i = w := by
  unfold decodeOp0 at h
  split at h
  · next hw => cases h; exact hw.symm
  split at h
  · next hw => cases h; exact hw.symm
  · cases h

theorem encode_of_decodeOp8 (hop : opField w = 8) (h : decodeOp8 w = .ok i) : encode i = w := by
  unfold decodeOp8 at h
  split at h <;> cases h
  all_goals next hn => exact wordXYN_of_fields hop (BitVec.eq_of_toNat_eq hn)

theorem encode_of_decodeOpE (hop : opField w = 14) (h : decodeOpE w = .ok i) : encode i = w := by
  unfold decodeOpE at h
  repeat' split at h
  all_goals cases h
  all_goals exact wordXKK_of_fields hop ‹_›

theorem encode_of_decodeOpF (hop : opField w = 15) (h : decodeOpF w = .ok i) : encode i = w := by
  unfold decodeOpF at h
  repeat' split at h
  all_goals cases h
  all_goals exact wordXKK_of_fields hop ‹_›

/-- A word that decodes to an instruction is that instruction's word: its format's fields are all of
its bits. -/
theorem encode_of_decode (h : decode w = .ok i) : encode i = w := by
  have hlt := opField_lt w
  unfold decode at h
  split at h
  case h_1 => exact encode_of_decodeOp0 h
  -- formats ADDR and XKK
  case h_2 | h_3 | h_11 => cases h; exact wordAddr_of_fields ‹_›
  case h_4 | h_5 | h_7 | h_8 | h_13 => cases h; exact wordXKK_of_fields ‹_› rfl
  -- formats XY and XYN
  case h_6 | h_10 =>
    split at h
    · cases h; exact wordXYN_of_fields ‹_› ‹_›
    · cases h
  case h_9 => exact encode_of_decodeOp8 ‹_› h
  case h_14 => cases h; exact wordXYN_of_fields ‹_› rfl
  -- op B is no instruction
  case h_12 => cases h
  -- format X
  case h_15 => exact encode_of_decodeOpE ‹_› h
  case h_16 => exact encode_of_decodeOpF (by grind) h

end Inverse

/-- Settles O19, by the decoder's branches. -/
theorem eachLegalWordIsItsInstructionsOwn : Obligations.EachLegalWordIsItsInstructionsOwn :=
  fun _ _ h => encode_of_decode h

/-! ## The rows of the opcode map (R95) -/

section Masks

variable (w m : Word)

/-! Each field of a masked word is the field, masked. -/

theorem opField_and : opField (w &&& m) = opField w &&& opField m :=
  Nat.and_div_two_pow (n := 12)

theorem xField_and : xField (w &&& m) = xField w &&& xField m := by
  apply Fin.ext
  simp [xField, Fin.ofNat, Nat.and_div_two_pow (n := 8), Nat.and_mod_two_pow (n := 4)]

theorem yField_and : yField (w &&& m) = yField w &&& yField m := by
  apply Fin.ext
  simp [yField, Fin.ofNat, Nat.and_div_two_pow (n := 4), Nat.and_mod_two_pow (n := 4)]

theorem nField_and : nField (w &&& m) = nField w &&& nField m := by
  ext; simp [nField]

theorem kkField_and : kkField (w &&& m) = kkField w &&& kkField m := by
  ext; simp [kkField]

theorem opField_and_15 : opField w &&& 15 = opField w := by
  rw [Nat.and_two_pow_sub_one_eq_mod _ 4, Nat.mod_eq_of_lt (opField_lt w)]

theorem regIdx_and_zero (x : RegIdx) : x &&& 0 = 0 := Fin.ext (by simp)

theorem and_eq_wordXKK : w &&& m =
    wordXKK (opField w &&& opField m) (xField w &&& xField m) (kkField w &&& kkField m) := by
  rw [← opField_and, ← xField_and, ← kkField_and, wordXKK_fields]

theorem and_eq_wordXYN : w &&& m = wordXYN (opField w &&& opField m) (xField w &&& xField m)
    (yField w &&& yField m) (nField w &&& nField m) := by
  rw [← opField_and, ← xField_and, ← yField_and, ← nField_and, wordXYN_fields]

/-! What is left of a word under each mask of the map. -/

theorem and_F000 : w &&& 0xF000 = wordXKK (opField w) 0 0 :=
  calc w &&& 0xF000
    _ = wordXKK (opField w &&& 15) (xField w &&& 0) (kkField w &&& 0) := and_eq_wordXKK w 0xF000
    _ = wordXKK (opField w) 0 0 := by simp [opField_and_15, regIdx_and_zero]

theorem and_F0FF : w &&& 0xF0FF = wordXKK (opField w) 0 (kkField w) :=
  calc w &&& 0xF0FF
    _ = wordXKK (opField w &&& 15) (xField w &&& 0) (kkField w &&& .allOnes 8) :=
      and_eq_wordXKK w 0xF0FF
    _ = wordXKK (opField w) 0 (kkField w) := by
      rw [opField_and_15, regIdx_and_zero, BitVec.and_allOnes]

theorem and_F00F : w &&& 0xF00F = wordXYN (opField w) 0 0 (nField w) :=
  calc w &&& 0xF00F
    _ = wordXYN (opField w &&& 15) (xField w &&& 0) (yField w &&& 0) (nField w &&& .allOnes 4) :=
      and_eq_wordXYN w 0xF00F
    _ = wordXYN (opField w) 0 0 (nField w) := by
      rw [opField_and_15, regIdx_and_zero, regIdx_and_zero, BitVec.and_allOnes]

end Masks

/-- The row of an instruction matches its word. -/
theorem accepts_encode (i : Instr) : i.row.accepts (encode i) = true := by
  rw [OpcodeRow.accepts, beq_iff_eq]
  cases i with
  | cls | ret => rfl
  | jpAddr | callAddr | seVxKk | sneVxKk | ldVxKk | addVxKk | ldIAddr | rndVxKk | drwVxVyN =>
    refine (and_F000 _).trans ?_
    simp [encode]; rfl
  | seVxVy | ldVxVy | orVxVy | andVxVy | xorVxVy | addVxVy | shrVxVy | shlVxVy | sneVxVy =>
    refine (and_F00F _).trans ?_
    simp [encode]; rfl
  | skpVx | sknpVx | ldVxDt | ldDtVx | addIVx | ldFVx | ldBVx | ldMemIVx | ldVxMemI =>
    refine (and_F0FF _).trans ?_
    simp [encode]; rfl

theorem row_mem_opcodeTable (i : Instr) : i.row ∈ opcodeTable := by
  cases i <;> simp [Instr.row, opcodeTable]

/-- Every row of the map is the row of an instruction, the one its match column decodes to. -/
theorem exists_row_eq {r : OpcodeRow} (h : r ∈ opcodeTable) : ∃ i : Instr, i.row = r := by
  have hbits : ∀ r ∈ opcodeTable, (decode r.bits).toOption.map Instr.row = some r := by decide
  obtain ⟨i, -, hi⟩ := Option.map_eq_some_iff.1 (hbits r h)
  exact ⟨i, hi⟩

section Accepts

variable {w b : Word}

/-! The fields a matched word shares with the match column. -/

theorem opField_of_accepts {r : OpcodeRow} (hr : r ∈ opcodeTable) (h : r.accepts w = true) :
    opField w = opField r.bits := by
  have hmask : ∀ r ∈ opcodeTable, opField r.mask = 15 := by decide
  rw [← eq_of_beq h, opField_and, hmask r hr, opField_and_15]

theorem nField_of_accepts (h : OpcodeRow.accepts ⟨b, 0xF00F⟩ w = true) : nField w = nField b := by
  have hw : w &&& 0xF00F = b := eq_of_beq h
  rw [← hw, and_F00F, nField_wordXYN _ _ _ _ (opField_lt w)]

theorem kkField_of_accepts (h : OpcodeRow.accepts ⟨b, 0xF0FF⟩ w = true) :
    kkField w = kkField b := by
  have hw : w &&& 0xF0FF = b := eq_of_beq h
  rw [← hw, and_F0FF, kkField_wordXKK _ _ _ (opField_lt w)]

theorem eq_of_accepts (h : OpcodeRow.accepts ⟨b, 0xFFFF⟩ w = true) : w = b := by
  have hw : w &&& .allOnes 16 = b := eq_of_beq h
  rwa [BitVec.and_allOnes] at hw

end Accepts

theorem opField_ofNat (k : Nat) : opField (BitVec.ofNat 16 k) = k % 65536 / 4096 := rfl

theorem nField_ofNat (k : Nat) : nField (BitVec.ofNat 16 k) = BitVec.ofNat 4 (k % 65536) := rfl

theorem kkField_ofNat (k : Nat) : kkField (BitVec.ofNat 16 k) = BitVec.ofNat 8 (k % 65536) := rfl

/-- A word that an instruction's row matches is an instruction: the row fixes all that the decoder
looks at. -/
theorem exists_decode_of_accepts {i : Instr} {w : Word} (h : i.row.accepts w = true) :
    ∃ j, decode w = .ok j := by
  have hop := opField_of_accepts (row_mem_opcodeTable i) h
  cases i with
  | cls | ret =>
    obtain rfl := eq_of_accepts h
    exact ⟨_, rfl⟩
  | jpAddr | callAddr | seVxKk | sneVxKk | ldVxKk | addVxKk | ldIAddr | rndVxKk | drwVxVyN =>
    simp [decode, hop, Instr.row, opField_ofNat]
  | seVxVy | ldVxVy | orVxVy | andVxVy | xorVxVy | addVxVy | shrVxVy | shlVxVy | sneVxVy =>
    have hn := nField_of_accepts h
    simp [decode, decodeOp8, hop, hn, Instr.row, opField_ofNat, nField_ofNat]
  | skpVx | sknpVx | ldVxDt | ldDtVx | addIVx | ldFVx | ldBVx | ldMemIVx | ldVxMemI =>
    have hkk := kkField_of_accepts h
    simp [decode, decodeOpE, decodeOpF, hop, hkk, Instr.row, opField_ofNat, kkField_ofNat]

/-- Settles O20: a legal word is its instruction's word, which the row matches; a row fixes what the
decoder looks at. -/
theorem decoderAgreesWithTheOpcodeMap : Obligations.DecoderAgreesWithTheOpcodeMap := by
  constructor
  · intro w i h
    obtain rfl := encode_of_decode h
    exact ⟨accepts_encode i, row_mem_opcodeTable i⟩
  · rintro w ⟨r, hr, h⟩
    obtain ⟨i, rfl⟩ := exists_row_eq hr
    exact exists_decode_of_accepts h

/-- No word matches two rows that differ on a bit both fix. -/
theorem not_accepts_both {r q : OpcodeRow} (h : r.bits &&& q.mask ≠ q.bits &&& r.mask) (w : Word) :
    ¬ (r.accepts w = true ∧ q.accepts w = true) := by
  rintro ⟨hr, hq⟩
  apply h
  rw [← eq_of_beq hr, ← eq_of_beq hq, BitVec.and_assoc, BitVec.and_assoc, BitVec.and_comm r.mask]

/-- Settles O21: any two rows differ on a bit both fix. -/
theorem opcodePatternsAreDisjoint : Obligations.OpcodePatternsAreDisjoint := by
  have hbits : opcodeTable.Pairwise fun r q => r.bits &&& q.mask ≠ q.bits &&& r.mask := by decide
  exact ⟨rfl, hbits.imp not_accepts_both⟩

/-- Settles O24, by running the decoder. -/
theorem wordsOfEveryFormatDecode : Obligations.WordsOfEveryFormatDecode :=
  ⟨rfl, rfl, rfl, rfl, rfl, rfl, rfl, rfl, rfl⟩

/-! ## The illegal words (R97) -/

/-- The decoder's answer is a decode failure. -/
def Fails (r : Except Illegal Instr) : Prop := ∃ e, r = .error e

@[simp] theorem fails_error (e : Illegal) : Fails (.error e) := ⟨e, rfl⟩

@[simp] theorem not_fails_ok (i : Instr) : ¬ Fails (.ok i) := nofun

theorem fails_ite (p : Prop) [Decidable p] (a b : Except Illegal Instr) :
    Fails (if p then a else b) ↔ if p then Fails a else Fails b := by
  split <;> rfl

theorem isOk_iff (r : Except Illegal Instr) : r.isOk = true ↔ ¬ Fails r := by
  cases r <;> simp [Except.isOk, Except.toBool]

/-- The groups of illegal words, on the four nibbles of a word. -/
abbrev IllegalNibbles (op x y n : Nat) : Prop :=
  (op = 0 ∧ ¬ (x = 0 ∧ y = 0xE ∧ n = 0) ∧ ¬ (x = 0 ∧ y = 0xE ∧ n = 0xE)) ∨
  (op = 5 ∧ n ≠ 0) ∨
  (op = 8 ∧ (n = 5 ∨ n = 7 ∨ (8 ≤ n ∧ n ≤ 0xD) ∨ n = 0xF)) ∨
  (op = 9 ∧ n ≠ 0) ∨
  op = 0xB ∨
  (op = 0xE ∧ y * 16 + n ≠ 0x9E ∧ y * 16 + n ≠ 0xA1) ∨
  (op = 0xF ∧ y * 16 + n ∉ [0x07, 0x15, 0x1E, 0x29, 0x33, 0x55, 0x65])

section Fails

variable (w : Word)

theorem toNat_kkField : (kkField w).toNat = (yField w).val * 16 + (nField w).toNat := by
  simp only [kkField, yField, nField, Fin.ofNat, BitVec.toNat_ofNat]; omega

theorem fails_decodeOp0 : Fails (decodeOp0 w) ↔ w.toNat ≠ 0xE0 ∧ w.toNat ≠ 0xEE := by
  simp [decodeOp0, fails_ite, BitVec.toNat_eq]

theorem fails_decodeOp8 : Fails (decodeOp8 w) ↔ (nField w).toNat ∉ [0, 1, 2, 3, 4, 6, 0xE] := by
  unfold decodeOp8
  split <;> simp_all

theorem fails_decodeOpE :
    Fails (decodeOpE w) ↔ (kkField w).toNat ≠ 0x9E ∧ (kkField w).toNat ≠ 0xA1 := by
  simp [decodeOpE, fails_ite, BitVec.toNat_eq]

theorem fails_decodeOpF : Fails (decodeOpF w) ↔
    (kkField w).toNat ∉ [0x07, 0x15, 0x1E, 0x29, 0x33, 0x55, 0x65] := by
  simp [decodeOpF, fails_ite, BitVec.toNat_eq]

/-- Which words are illegal, by the op nibble. -/
theorem fails_decode :
    Fails (decode w) ↔ IllegalNibbles (opField w) (xField w) (yField w) (nField w).toNat := by
  have hw := toNat_eq_xyn w
  have hn := (nField w).isLt
  have hlt := opField_lt w
  unfold IllegalNibbles
  interval_cases hop : opField w <;>
    simp [decode, hop, fails_ite, fails_decodeOp0, fails_decodeOp8, fails_decodeOpE,
      fails_decodeOpF, toNat_kkField, BitVec.toNat_eq]
  · omega
  · omega

end Fails

/-- Settles O22: the nibbles are the word's fields op, x, y and n. -/
theorem illegalWordsByGroup : Obligations.IllegalWordsByGroup := fun w =>
  ⟨opField w, xField w, yField w, (nField w).toNat, opField_lt w, (xField w).isLt, (yField w).isLt,
    (nField w).isLt, toNat_eq_xyn w, fails_decode w⟩

/-! ## Counting the legal words (R94) -/

/-- Counting below a product, block by block. -/
theorem count_mul (p : Nat → Prop) [DecidablePred p] (a b : Nat) :
    Nat.count p (a * b) = ∑ i ∈ Finset.range a, Nat.count (fun j => p (i * b + j)) b := by
  induction a with
  | zero => simp
  | succ a ih => rw [Nat.succ_mul, Nat.count_add, ih, Finset.sum_range_succ]

theorem isOk_decode_nibbles {op x y n : Nat} (hop : op < 16) (hx : x < 16) (hy : y < 16)
    (hn : n < 16) :
    (decode (BitVec.ofNat 16 (op * 4096 + (x * 256 + (y * 16 + n))))).isOk = true ↔
      ¬ IllegalNibbles op x y n := by
  have hw : BitVec.ofNat 16 (op * 4096 + (x * 256 + (y * 16 + n))) =
      wordXYN op ⟨x, hx⟩ ⟨y, hy⟩ (BitVec.ofNat 4 n) := by
    simp [wordXYN, Nat.mod_eq_of_lt hn, Nat.add_assoc]
  rw [isOk_iff, fails_decode, hw]
  simp [hop, Nat.mod_eq_of_lt hn]

/-- How many words with the nibbles op and x are instructions. -/
def legalTails (op x : Nat) : Nat :=
  ∑ y ∈ Finset.range 16, Nat.count (fun n => ¬ IllegalNibbles op x y n) 16

/-- That number: x matters only where op is 0. -/
def tailCount (op x : Nat) : Nat :=
  if op = 0 then if x = 0 then 2 else 0
  else [0, 256, 256, 256, 256, 16, 256, 256, 112, 16, 256, 0, 256, 256, 2, 7].getD op 0

theorem legalTails_eq {op : Nat} (hop : op < 16) (x : Nat) : legalTails op x = tailCount op x := by
  unfold legalTails
  interval_cases op
  · by_cases hx : x = 0 <;> simp [IllegalNibbles, tailCount, hx]
    decide
  all_goals simp [IllegalNibbles, tailCount] <;> decide

/-- The legal words, summed over the nibbles op and x. -/
theorem count_isOk_decode :
    Nat.count (fun k => (decode (BitVec.ofNat 16 k)).isOk = true) (16 * (16 * (16 * 16))) =
      ∑ op ∈ Finset.range 16, ∑ x ∈ Finset.range 16, legalTails op x := by
  rw [count_mul]
  refine Finset.sum_congr rfl fun op hop => ?_
  rw [count_mul]
  refine Finset.sum_congr rfl fun x hx => ?_
  rw [count_mul]
  refine Finset.sum_congr rfl fun y hy => ?_
  rw [Finset.mem_range] at hop hx hy
  refine List.countP_congr fun n hn => ?_
  simpa only [decide_eq_true_iff] using isOk_decode_nibbles hop hx hy (List.mem_range.1 hn)

/-- Settles O23, nibble by nibble. -/
theorem legalWordCount : Obligations.LegalWordCount :=
  calc ((List.range 65536).filter fun w => (decode (BitVec.ofNat 16 w)).isOk).length
    _ = Nat.count (fun k => (decode (BitVec.ofNat 16 k)).isOk = true) 65536 := by
      simp only [Nat.count, List.countP_eq_length_filter, Bool.decide_eq_true]
    _ = ∑ op ∈ Finset.range 16, ∑ x ∈ Finset.range 16, legalTails op x := count_isOk_decode
    _ = ∑ op ∈ Finset.range 16, ∑ x ∈ Finset.range 16, tailCount op x :=
      Finset.sum_congr rfl fun _ hop =>
        Finset.sum_congr rfl fun x _ => legalTails_eq (Finset.mem_range.1 hop) x
    _ = 39314 := rfl

/-! ## The assembler (R93, R99) -/

section Fits

variable {o : AsmOperand} {os : List AsmOperand}

theorem fits_reg_iff : o.fits .reg = true ↔ ∃ x < 16, o = .reg x := by
  cases o <;> simp [AsmOperand.fits]

theorem fits_num_iff : (o.fits .kk = true ↔ ∃ kk < 256, o = .num kk) ∧
    (o.fits .addr = true ↔ ∃ a < 4096, o = .num a) ∧ (o.fits .n = true ↔ ∃ n < 16, o = .num n) := by
  cases o <;> simp [AsmOperand.fits]

theorem fits_literal_iff : (o.fits .index = true ↔ o = .index) ∧
    (o.fits .delay = true ↔ o = .delay) ∧ (o.fits .glyph = true ↔ o = .glyph) ∧
    (o.fits .bcd = true ↔ o = .bcd) ∧ (o.fits .atIndex = true ↔ o = .atIndex) := by
  cases o <;> simp [AsmOperand.fits]

theorem operandsFit_nil : operandsFit os [] = true ↔ os = [] := by
  cases os <;> simp [operandsFit]

theorem operandsFit_cons {k : OperandKind} {ks : List OperandKind} :
    operandsFit os (k :: ks) = true ↔
      ∃ o rest, os = o :: rest ∧ o.fits k = true ∧ operandsFit rest ks = true := by
  cases os <;> simp [operandsFit]

end Fits

/-! Each format assembles when its operands are in range. -/

theorem isSome_asmX (f : RegIdx → Instr) (x : Nat) : (asmX f x).isSome = true ↔ x < 16 := by
  simp [asmX, asmReg]

theorem isSome_asmAddr (f : Addr12 → Instr) (a : Nat) :
    (asmAddr f a).isSome = true ↔ a < 4096 := by
  simp [asmAddr, asmNum]

theorem isSome_asmXKK (f : RegIdx → Byte → Instr) (x kk : Nat) :
    (asmXKK f x kk).isSome = true ↔ x < 16 ∧ kk < 256 := by
  by_cases hx : x < 16 <;> simp [asmXKK, asmReg, asmNum, hx]

theorem isSome_asmXY (f : RegIdx → RegIdx → Instr) (x y : Nat) :
    (asmXY f x y).isSome = true ↔ x < 16 ∧ y < 16 := by
  by_cases hx : x < 16 <;> simp [asmXY, asmReg, hx]

/-- Format XYN, which DRW alone has. -/
theorem isSome_asmXYN (f : RegIdx → RegIdx → BitVec 4 → Instr) (x y n : Nat) :
    ((asmReg x).bind fun rx => (asmReg y).bind fun ry => (asmNum 4 n).map (f rx ry)).isSome = true ↔
      x < 16 ∧ y < 16 ∧ n < 16 := by
  by_cases hx : x < 16 <;> by_cases hy : y < 16 <;> simp [asmReg, asmNum, hx, hy]

/-- A line with operands that fit a form of its mnemonic assembles, form by form. -/
theorem isSome_assemble_of_wf {l : AsmLine} (h : l.wf = true) : (assemble l).isSome = true := by
  obtain ⟨m, os⟩ := l
  rw [AsmLine.wf, List.any_eq_true] at h
  cases m <;> simp only [Mnemonic.forms, List.mem_cons, List.not_mem_nil, or_false, exists_eq_left,
    exists_eq_or_imp, operandsFit_cons, operandsFit_nil, fits_reg_iff, fits_num_iff,
    fits_literal_iff, exists_eq_right, exists_eq_right_right, ↓existsAndEq, and_true, true_and] at h
  case cls | ret => subst h; rfl
  case jp | call =>
    obtain ⟨a, rfl, ha⟩ := h
    exact (isSome_asmAddr _ a).2 ha
  case se | sne =>
    obtain ⟨kk, x, rfl, hb⟩ | ⟨y, x, rfl, hb⟩ := h
    · exact (isSome_asmXKK _ x kk).2 hb
    · exact (isSome_asmXY _ x y).2 hb
  case ld =>
    obtain ⟨kk, x, rfl, hb⟩ | ⟨y, x, rfl, hb⟩ | ⟨a, rfl, ha⟩ | hx := h
    · exact (isSome_asmXKK _ x kk).2 hb
    · exact (isSome_asmXY _ x y).2 hb
    · exact (isSome_asmAddr _ a).2 ha
    obtain ⟨x, rfl, hx⟩ | ⟨x, rfl, hx⟩ | ⟨x, rfl, hx⟩ | ⟨x, rfl, hx⟩ | ⟨x, rfl, hx⟩ |
      ⟨x, rfl, hx⟩ := hx
    all_goals exact (isSome_asmX _ x).2 hx
  case add =>
    obtain ⟨kk, x, rfl, hb⟩ | ⟨y, x, rfl, hb⟩ | ⟨x, rfl, hx⟩ := h
    · exact (isSome_asmXKK _ x kk).2 hb
    · exact (isSome_asmXY _ x y).2 hb
    · exact (isSome_asmX _ x).2 hx
  case or | and | xor | shr | shl =>
    obtain ⟨y, x, rfl, hb⟩ := h
    exact (isSome_asmXY _ x y).2 hb
  case rnd =>
    obtain ⟨kk, x, rfl, hb⟩ := h
    exact (isSome_asmXKK _ x kk).2 hb
  case drw =>
    obtain ⟨n, y, x, rfl, hb⟩ := h
    exact (isSome_asmXYN _ x y n).2 hb
  case skp | sknp =>
    obtain ⟨x, rfl, hx⟩ := h
    exact (isSome_asmX _ x).2 hx

/-- A line that assembles is well-formed: in each case of `assemble` the operands are in range. -/
theorem wf_of_isSome_assemble {l : AsmLine} (h : (assemble l).isSome = true) : l.wf = true := by
  unfold assemble at h
  split at h
  case h_30 => cases h
  all_goals
    simp_all [isSome_asmX, isSome_asmAddr, isSome_asmXKK, isSome_asmXY, isSome_asmXYN, AsmLine.wf,
      Mnemonic.forms, operandsFit, AsmOperand.fits]

/-- Settles O25. -/
theorem assemblerAcceptsExactlyWellFormedLines :
    Obligations.AssemblerAcceptsExactlyWellFormedLines :=
  fun _ => Bool.eq_iff_iff.2 ⟨wf_of_isSome_assemble, isSome_assemble_of_wf⟩

end Sys2Proof.Claims

/-! # The step cycle: every request completes, RUN and HALT, the fetch, PC, the keypad input

Proofs for the statements over spec/40_step_cycle.md. What a step answers is one equation per case:
`step_of_halt`, `step_of_fetchFault`, `step_of_decodeFault` and `step_of_decode`. -/

namespace Sys2Proof.Claims

open Sys2Proof Sys2Proof.Machine

/-! ## The step, case by case (R121, R122, R123, R127) -/

/-- A step in RUN with PC at or above 4095 ends in its fetch (R122). -/
theorem step_of_fetchFault {s : State} (hm : s.mode = .run) (hpc : 4095 ≤ s.pc.toNat) :
    step s = .next (fetchFault (max s.pc.toNat 4096) s) := by
  obtain ⟨-, hs⟩ | ⟨hlt, -⟩ := step_of_run hm
  · exact hs
  · omega

/-- A step in RUN whose word at PC is illegal ends in its decode (R123). -/
theorem step_of_decodeFault {s : State} {e : Illegal} (hm : s.mode = .run)
    (hpc : s.pc.toNat < 4095) (hd : decode (wordAt s) = .error e) :
    step s = .next (decodeFault (wordAt s) s) := by
  rw [step, hm]
  simp only [runStep, fetch_of_lt hpc, hd]

/-- Settles O14: the halted step writes the beep port and nothing else. -/
theorem stepInHaltChangesNothing : Obligations.StepInHaltChangesNothing := by
  intro s hm
  exact ⟨haltedStep s, step_of_halt hm, rfl, rfl, kept_setBeep (by simp) false⟩

/-- Settles O11: a step is its execute phase and the end of the step. -/
theorem stepRunsTheDecodedInstruction : Obligations.StepRunsTheDecodedInstruction :=
  fun _ _ => completes_stepEnds

/-- The entry of a fetch that faults, when the address it reports fits FADDR. -/
theorem faultEntry_fetchFault {a : Nat} (ha : a < 2 ^ 17) (s : State) :
    FaultEntry 2 0 a s (fetchFault a s) :=
  faultEntry_takeFault .memoryOutOfBounds 0 ha s

/-- Settles O12, by PC: below 4095 a word is read, from 4095 on the reported address is
max(PC, 4096). -/
theorem fetchReadsTheWordAtPcOrFaults : Obligations.FetchReadsTheWordAtPcOrFaults := by
  intro s
  refine ⟨fetch_of_lt, fun hm hpc => ?_, fun hm hpc => ?_⟩
  · have hs := step_of_fetchFault hm (by omega)
    rw [max_eq_left (by omega)] at hs
    exact ⟨_, hs, faultEntry_fetchFault (by omega) s⟩
  · have hs := step_of_fetchFault hm (by omega)
    rw [hpc] at hs
    exact ⟨_, hs, faultEntry_fetchFault (by decide) s⟩

/-! ## Every request completes (R126, R128) -/

theorem exists_step_eq_next (s : State) : ∃ t, step s = .next t := by
  cases hm : s.mode with
  | halt => exact ⟨_, step_of_halt hm⟩
  | run =>
    by_cases hpc : s.pc.toNat < 4095
    · cases hd : decode (wordAt s) with
      | error e => exact ⟨_, step_of_decodeFault hm hpc hd⟩
      | ok i =>
        obtain ⟨u, hu⟩ := exists_exec_eq_next i s
        exact ⟨afterExecute .coupled u, by rw [step_of_decode hm hpc hd, hu, finishStep]⟩
    · exact ⟨_, step_of_fetchFault hm (by omega)⟩

theorem exists_hostEvent_eq_next (e : HostEvent) (s : State) : ∃ t, hostEvent e s = .next t := by
  cases e with
  | reset | load | tick => exact ⟨_, rfl⟩
  | step keys => exact exists_step_eq_next (s.setKeys keys)

theorem exists_hostRun_eq_next (es : List HostEvent) (s : State) :
    ∃ t, hostRun es s = .next t := by
  induction es generalizing s with
  | nil => exact ⟨s, rfl⟩
  | cons e rest ih =>
    obtain ⟨u, hu⟩ := exists_hostEvent_eq_next e s
    rw [hostRun, hu]
    exact ih u

/-- Settles O5: a step by its cases, a run of transactions by induction on the events. -/
theorem everyRequestCompletes : Obligations.EveryRequestCompletes :=
  ⟨exists_step_eq_next, exists_hostRun_eq_next⟩

/-! ## The control states (R120) -/

/-- A step in RUN stays in RUN or takes a fault. -/
theorem run_or_takeFault_of_step {s t : State} (hm : s.mode = .run) (h : step s = .next t) :
    t.mode = .run ∨ ∃ c w a, Reports c a ∧ t = takeFault c w a s := by
  cases step_cases h with
  | halted hhalt => rw [hm] at hhalt; cases hhalt
  | fetchFault => exact .inr ⟨_, _, _, reports_max s.pc.isLt, rfl⟩
  | decodeFault => exact .inr ⟨.decodeFailure, wordAt s, 0, rfl, rfl⟩
  | executeFault _ _ _ _ ha => exact .inr ⟨_, _, _, ha, rfl⟩
  | completed _ _ _ hu => exact .inl (hu.control.1.trans hm)

theorem kept_loadProgram (bytes : List Byte) (s : State) :
    Kept [.memory] s (loadProgram bytes s).2 := by
  unfold loadProgram
  split
  · exact .refl _ s
  · exact kept_setMem (by simp) _

theorem kept_setKeys (k : Word) (s : State) : Kept [.ports] s (s.setKeys k) := by
  intro p hp
  cases p <;> simp_all [Part.same]

/-- A COUPLED machine has no tick event: it changes nothing (notes/assumptions/9.md). -/
theorem hostEvent_tick (s : State) : hostEvent .tick s = .next s := rfl

/-- A transaction that is neither a reset nor a step in RUN changes memory, by a load, or
the ports. -/
theorem kept_of_hostEvent {e : HostEvent} {s t : State} (h : hostEvent e s = .next t)
    (hreset : e ≠ .reset) (hstep : s.mode = .run → ∀ keys, e ≠ .step keys) :
    (∃ bytes, e = .load bytes) ∧ Kept [.memory] s t ∨ Kept [.ports] s t := by
  cases e with
  | reset => exact absurd rfl hreset
  | load bytes =>
    cases h
    exact .inl ⟨⟨bytes, rfl⟩, kept_loadProgram bytes s⟩
  | tick =>
    cases h
    exact .inr (.refl _ s)
  | step keys =>
    have hm : (s.setKeys keys).mode = .halt := by
      cases hm : s.mode with
      | halt => exact hm
      | run => exact absurd rfl (hstep hm keys)
    have hs : step (s.setKeys keys) = .next t := h
    rw [step_of_halt hm] at hs
    cases hs
    exact .inr ((kept_setKeys keys s).trans (kept_setBeep (by simp) false))

theorem control_of_hostEvent {e : HostEvent} {s t : State} (h : hostEvent e s = .next t)
    (hreset : e ≠ .reset) (hstep : s.mode = .run → ∀ keys, e ≠ .step keys) :
    Part.control.same s t := by
  obtain ⟨-, hk⟩ | hk := kept_of_hostEvent h hreset hstep
  · exact hk .control (by simp)
  · exact hk .control (by simp)

/-- Settles O7: a step in RUN by its cases; the other transactions but reset leave the control state
alone. -/
theorem onlyResetLeavesHalt : Obligations.OnlyResetLeavesHalt := by
  intro e s t h
  refine ⟨?_, ?_, fun hrun hhalt => ?_, fun hhalt hreset => ?_⟩
  · rintro rfl
    cases h
    rfl
  · rintro keys rfl hm
    refine (run_or_takeFault_of_step (s := s.setKeys keys) hm h).imp_right ?_
    rintro ⟨c, w, a, ha, rfl⟩
    obtain ⟨hlo, hhi⟩ := code_bounds c
    exact ⟨c.code.toNat, w, a, hlo, hhi, faultEntry_takeFault c w (reports_lt ha) _⟩
  · by_contra! hstep
    have hreset : e ≠ .reset := by
      rintro rfl
      cases h
      cases hhalt
    have hmode := (control_of_hostEvent h hreset fun _ => hstep).1
    simp [hrun, hhalt] at hmode
  · have hstep : s.mode = .run → ∀ keys, e ≠ .step keys := by simp [hhalt]
    refine ⟨control_of_hostEvent h hreset hstep, fun hload => ?_⟩
    obtain ⟨⟨bytes, he⟩, -⟩ | hk := kept_of_hostEvent h hreset hstep
    · exact absurd he (hload bytes)
    · exact hk

/-! ## PC after an instruction (R124) -/

theorem slot_of_lt (s : State) {k : Nat} (hk : k < 16) : slot s k = s.stack[k] := by
  simp [slot, hk]

namespace Completed

variable {i : Instr} {s t : State}

/-- The values of `pc_cases` as numbers: with PC below 4095 and slots at most 0xFFE no sum is
reduced. -/
theorem pc_toNat_cases (h : Completed i s t) (hpc : s.pc.toNat < 4095) (hstack : s.stackBounded) :
    t.pc.toNat = s.pc.toNat + 2 ∨ t.pc.toNat = s.pc.toNat + 4 ∨
      (∃ a : Addr12, (i = .jpAddr a ∨ i = .callAddr a) ∧ t.pc.toNat = a.toNat) ∨
      (i = .ret ∧ t.pc.toNat = (slot s (s.sp.val - 1)).toNat + 2) := by
  obtain e | e | ⟨addr, hi, e⟩ | ⟨hi, hsp, e⟩ := h.pc_cases
  · exact .inl (by bv_omega)
  · exact .inr (.inl (by bv_omega))
  · refine .inr (.inr (.inl ⟨addr, hi, ?_⟩))
    have := addr.isLt
    rw [e, addrValue, BitVec.toNat_setWidth, Nat.mod_eq_of_lt (by omega)]
  · refine .inr (.inr (.inr ⟨hi, ?_⟩))
    have hslot : (s.stack[s.sp.val - 1]).toNat ≤ 0xFFE := hstack ⟨s.sp.val - 1, by omega⟩
    rw [slot_of_lt s (by omega), e]
    bv_omega

end Completed

/-- Settles O16: a fault keeps PC, and a completed instruction leaves one of four values. -/
theorem programCounterNeverWraps : Obligations.ProgramCounterNeverWraps := by
  intro i s t hpc hstack h
  obtain ⟨c, a, -, -, rfl⟩ | hd := exec_cases h
  · have hle : s.pc.toNat ≤ 0x1002 := by omega
    exact ⟨hle, .inl ⟨rfl, rfl⟩⟩
  · exact ⟨hd.pcBounded hpc hstack, .inr (hd.pc_toNat_cases hpc hstack)⟩

/-! ## The keypad input of a step (R126, spec/70_reset_and_hazards.md R302) -/

theorem finishStep_withKeys (m : Config.TickMode) (k : Word) (r : Result) :
    finishStep m (withKeys k r) = withKeys k (finishStep m r) := by
  cases r with
  | fault | refused => rfl
  | next u =>
    refine congrArg Host.Outcome.next ?_
    unfold afterExecute
    rw [mode_setKeys]
    cases u.mode <;> cases m <;> rfl

/-- A step whose word is neither SKP nor SKNP does the same for every keypad input. -/
theorem step_setKeys {s : State} (k : Word) (hskp : ∀ x, decode (wordAt s) ≠ .ok (.skpVx x))
    (hsknp : ∀ x, decode (wordAt s) ≠ .ok (.sknpVx x)) :
    step (s.setKeys k) = withKeys k (step s) := by
  have hword : wordAt (s.setKeys k) = wordAt s := rfl
  cases hm : s.mode with
  | halt =>
    rw [step_of_halt hm, step_of_halt (s := s.setKeys k) hm]
    rfl
  | run =>
    by_cases hpc : s.pc.toNat < 4095
    · cases hd : decode (wordAt s) with
      | error e =>
        rw [step_of_decodeFault hm hpc hd, step_of_decodeFault (s := s.setKeys k) hm hpc hd]
        rfl
      | ok i =>
        have hi : ∀ x, i ≠ .skpVx x ∧ i ≠ .sknpVx x := fun x =>
          ⟨fun e => hskp x (e ▸ hd), fun e => hsknp x (e ▸ hd)⟩
        rw [step_of_decode hm hpc hd, step_of_decode (s := s.setKeys k) hm hpc hd,
          exec_setKeys s k hi, finishStep_withKeys]
    · have hle : 4095 ≤ s.pc.toNat := by omega
      rw [step_of_fetchFault hm hle, step_of_fetchFault (s := s.setKeys k) hm hle]
      rfl

/-- Settles O59: the second input replaces the first, and the step reads neither. -/
theorem keypadInputIsInvisibleToOtherSteps : Obligations.KeypadInputIsInvisibleToOtherSteps := by
  intro s t k k' hskp hsknp h
  have hs : step (s.setKeys k) = .next t := h
  calc step (s.setKeys k') = withKeys k' (step (s.setKeys k)) :=
        step_setKeys (s := s.setKeys k) k' hskp hsknp
    _ = .next (t.setKeys k') := by rw [hs, withKeys]

end Sys2Proof.Claims

/-! # Control transfer: RET, JP, CALL and the register skips

Proofs for the statements over spec/41_control_flow.md. The first part reads the shapes the statements
share off one equation of `exec`; then each instruction has its equation, and its statement follows. -/

namespace Sys2Proof.Claims

open Sys2Proof Sys2Proof.Machine

/-! ## The shapes of the statements -/

/-- An instruction that encodes to `w` is exactly `w`, since the decoder inverts the encoder. -/
theorem encodes_of_encode_eq {i : Instr} {w : Nat} (h : encode i = BitVec.ofNat 16 w) :
    Encodes i w :=
  ⟨h, h ▸ decode_encode i⟩

theorem faults_of_exec_eq_raise {i : Instr} {s : State} {c : FaultCause} {a : Nat}
    (h : exec i s = raise c i a s) (ha : a < 2 ^ 17) : Faults i s c.code.toNat a :=
  ⟨_, h, faultEntry_takeFault c (encode i) ha s⟩

theorem advances_of_pc_eq {k : Nat} {s t : State} (h : t.pc = s.pc + BitVec.ofNat 16 k) :
    Advances k s t := by
  intro hk
  rw [h, BitVec.toNat_add, BitVec.toNat_ofNat]
  omega

theorem skips_of_exec_eq_skipIf {i : Instr} {s : State} {c : Bool} {taken : Prop}
    (h : exec i s = .next (s.skipIf c)) (hc : c = true ↔ taken) : Skips i s taken := by
  refine ⟨_, h, fun ht => advances_of_pc_eq ?_, fun ht => advances_of_pc_eq ?_,
    kept_skipIf (by simp) c⟩
  · exact (pc_skipIf s c).trans (if_pos (hc.2 ht))
  · exact (pc_skipIf s c).trans (if_neg (mt hc.1 ht))

@[simp] theorem toNat_addrValue (addr : Addr12) : (addrValue addr).toNat = addr.toNat := by
  have := addr.isLt
  rw [addrValue, BitVec.toNat_setWidth, Nat.mod_eq_of_lt (by omega)]

/-! ## The call-stack slots -/

theorem slot_congr {s t : State} (h : t.stack = s.stack) (k : Nat) : slot t k = slot s k := by
  rw [slot, slot, h]

/-- A slot after a push at depth `d` (spec/41_control_flow.md R140). -/
theorem slot_of_stack_eq_set {s t : State} {d : Nat} {a : Word} (hd : d < 16)
    (h : t.stack = s.stack.set d a hd) (k : Nat) : slot t k = if k = d then a else slot s k := by
  simp only [slot, h, Vector.toList_set, List.getD_eq_getElem?_getD, List.getElem?_set,
    Vector.length_toList, hd, if_true, eq_comm (a := d)]
  split <;> rfl

/-! ## JP (R143) -/

/-- Settles O27. -/
theorem jpSetsTheProgramCounter : Obligations.JpSetsTheProgramCounter := fun addr _ =>
  ⟨encodes_of_encode_eq rfl, _, rfl, toNat_addrValue addr, kept_setPc (by simp) _⟩

/-! ## CALL (R144) -/

theorem exec_callAddr_of_full {s : State} (addr : Addr12) (h : s.sp.val = 16) :
    exec (.callAddr addr) s = raise .stackOverflow (.callAddr addr) 0 s := by
  rw [exec, execCallAddr, push_eq_none.2 h]

theorem exec_callAddr_of_lt {s : State} (addr : Addr12) (h : s.sp.val < 16) :
    exec (.callAddr addr) s = .next (State.setPc
      { s with stack := s.stack.set s.sp.val s.pc h, sp := ⟨s.sp.val + 1, by omega⟩ }
      (addrValue addr)) := by
  rw [exec, execCallAddr, push_eq_some.2 ⟨h, rfl⟩]

/-- Settles O28: the stack after CALL is the old one with PC set at the slot SP. -/
theorem callPushesItsOwnAddress : Obligations.CallPushesItsOwnAddress := by
  intro addr s
  refine ⟨encodes_of_encode_eq rfl,
    fun hfull => faults_of_exec_eq_raise (exec_callAddr_of_full addr hfull) (by decide),
    fun hlt => ⟨_, exec_callAddr_of_lt addr hlt, ?_, fun k hk => ?_, rfl, toNat_addrValue addr,
      (Completed.call addr rfl hlt).kept⟩⟩
  · exact (slot_of_stack_eq_set hlt (stack_setPc _ _) _).trans (if_pos rfl)
  · exact (slot_of_stack_eq_set hlt (stack_setPc _ _) k).trans (if_neg hk)

/-! ## RET (R142) -/

theorem exec_ret_of_empty {s : State} (h : s.sp.val = 0) :
    exec .ret s = raise .stackUnderflow .ret 0 s := by
  rw [exec, execRet, pop_eq_none.2 h]

theorem exec_ret_of_pos {s : State} (h : 0 < s.sp.val) :
    exec .ret s = .next (State.setPc { s with sp := ⟨s.sp.val - 1, by omega⟩ }
      (s.stack[s.sp.val - 1] + 2)) := by
  rw [exec, execRet, pop_eq_some.2 ⟨h, rfl, rfl⟩]

/-- Settles O26: PC is the popped slot plus 2, a sum that is not reduced when it fits 16 bits. -/
theorem retPopsTheCallAndAddsTwo : Obligations.RetPopsTheCallAndAddsTwo := by
  refine ⟨encodes_of_encode_eq rfl, fun s =>
    ⟨fun hempty => faults_of_exec_eq_raise (exec_ret_of_empty hempty) (by decide),
    fun hpos => ⟨_, exec_ret_of_pos hpos, rfl, rfl, fun hfits => ?_,
      (Completed.ret rfl hpos).kept⟩⟩⟩
  rw [slot_of_lt s (by omega)] at hfits ⊢
  rw [pc_setPc]
  bv_omega

/-- Settles O29, from what CALL pushes (O28) and what RET pops (O26): the slot RET reads is the one
CALL wrote. -/
theorem returnUndoesCall : Obligations.ReturnUndoesCall := by
  intro addr s hlt
  obtain ⟨-, -, hcall⟩ := callPushesItsOwnAddress addr s
  obtain ⟨t, ht, hslot, -, hsp, -, -⟩ := hcall hlt
  refine ⟨t, ht, fun t' hsp' hstack' => ?_⟩
  have hdepth : t'.sp.val = s.sp.val + 1 := by rw [hsp', hsp]
  obtain ⟨u, hu, husp, -, hpc, -⟩ := (retPopsTheCallAndAddsTwo.2 t').2 (by omega)
  have hpopped : slot t' (t'.sp.val - 1) = s.pc := by
    rw [hdepth, Nat.add_sub_cancel, slot_congr hstack', hslot]
  rw [hpopped] at hpc
  exact ⟨u, hu, hpc, Fin.ext (by omega)⟩

/-! ## The register skips (R145 to R148) -/

/-- Settles O30: each is a skip on a comparison of two bytes. -/
theorem registerSkipsCompareAndSkip : Obligations.RegisterSkipsCompareAndSkip := fun _ _ _ _ =>
  ⟨⟨encodes_of_encode_eq rfl, skips_of_exec_eq_skipIf rfl beq_iff_eq⟩,
    ⟨encodes_of_encode_eq rfl, skips_of_exec_eq_skipIf rfl bne_iff_ne⟩,
    ⟨encodes_of_encode_eq rfl, skips_of_exec_eq_skipIf rfl beq_iff_eq⟩,
    ⟨encodes_of_encode_eq rfl, skips_of_exec_eq_skipIf rfl bne_iff_ne⟩⟩

end Sys2Proof.Claims

/-! # Loads, arithmetic, logic, shifts and random

Proofs for the statements over spec/42_load_alu_random.md. The first part reads the two shapes of a
register write, without and with a flag, off one equation of `exec`; what is left of each instruction
is the arithmetic of its result. -/

namespace Sys2Proof.Claims

open Sys2Proof Sys2Proof.Machine

/-! ## The shapes of the statements -/

/-- The words of op 8: the low nibble selects the operation. -/
theorem encodes_of_encode_op8 {i : Instr} {x y : RegIdx} {n : BitVec 4} {w : Nat}
    (h : encode i = wordXYN 8 x y n) (hw : 0x8000 + n.toNat = w) :
    Encodes i (w + x.val * 256 + y.val * 16) := by
  have hsum : 8 * 4096 + x.val * 256 + y.val * 16 + n.toNat = w + x.val * 256 + y.val * 16 := by
    omega
  exact encodes_of_encode_eq (h.trans (congrArg (BitVec.ofNat 16) hsum))

theorem advances_fallThrough (s : State) : Advances 2 s s.fallThrough :=
  advances_of_pc_eq rfl

theorem regsKept_setReg (s : State) (x : RegIdx) (b : Byte) : RegsKept (· = x) s (s.setReg x b) :=
  fun r hr => (reg_setReg s x b r).trans (if_neg hr)

theorem regsKept_setRegFlag (s : State) (x : RegIdx) (b f : Byte) :
    RegsKept (fun r => r = x ∨ r = vf) s (s.setRegFlag x b f) := by
  intro r hr
  obtain ⟨hx, hf⟩ := not_or.1 hr
  rw [reg_setRegFlag, if_neg hf, if_neg hx]

theorem loads_of_exec_eq {i : Instr} {s : State} {x : RegIdx} {b : Byte}
    (h : exec i s = .next (s.setReg x b).fallThrough) : Loads i s x b :=
  ⟨_, h, (reg_setReg s x b x).trans (if_pos rfl), advances_fallThrough _, regsKept_setReg s x b,
    (kept_setReg (by simp) x b).trans (kept_fallThrough (by simp))⟩

/-- VF is written last, so V[x] holds the result unless x is VF. -/
theorem loadsWithFlag_of_exec_eq {i : Instr} {s : State} {x : RegIdx} {b : Byte}
    {n : Nat} {f : Bool} (h : exec i s = .next (s.setRegFlag x b (flagByte f)).fallThrough)
    (hb : b.toNat = n) : LoadsWithFlag i s x n f := by
  refine ⟨_, h, fun hx => ?_, (reg_setRegFlag s x b _ vf).trans (if_pos rfl),
    advances_fallThrough _, regsKept_setRegFlag s x b _,
    (kept_setRegFlag (by simp) x b _).trans (kept_fallThrough (by simp))⟩
  rw [reg_fallThrough, reg_setRegFlag, if_neg hx, if_pos rfl, hb]

/-! ## Loads, sums and bits (R160 to R166) -/

/-- Settles O31. -/
theorem ldVxKkLoadsTheImmediate : Obligations.LdVxKkLoadsTheImmediate := fun _ _ _ =>
  ⟨encodes_of_encode_eq rfl, loads_of_exec_eq rfl⟩

/-- Settles O32: the sum of two bytes is their sum modulo 256. -/
theorem addVxKkWrapsWithoutAFlag : Obligations.AddVxKkWrapsWithoutAFlag := by
  intro x kk s
  have hsum : BitVec.ofNat 8 (((s.reg x).toNat + kk.toNat) % 256) = s.reg x + kk :=
    BitVec.eq_of_toNat_eq (by simp)
  rw [hsum]
  exact ⟨encodes_of_encode_eq rfl, loads_of_exec_eq rfl⟩

/-- Settles O33. -/
theorem registerFormsCopyAndCombineBits : Obligations.RegisterFormsCopyAndCombineBits :=
  fun _ _ _ =>
    ⟨⟨encodes_of_encode_op8 rfl rfl, loads_of_exec_eq rfl⟩,
      ⟨encodes_of_encode_op8 rfl rfl, _, loads_of_exec_eq rfl, fun _ _ => BitVec.getLsbD_or⟩,
      ⟨encodes_of_encode_op8 rfl rfl, _, loads_of_exec_eq rfl, fun _ _ => BitVec.getLsbD_and⟩,
      ⟨encodes_of_encode_op8 rfl rfl, _, loads_of_exec_eq rfl, fun _ _ => BitVec.getLsbD_xor⟩⟩

/-- Settles O34. -/
theorem addVxVyReportsTheCarry : Obligations.AddVxVyReportsTheCarry := fun _ _ _ =>
  ⟨encodes_of_encode_op8 rfl rfl, loadsWithFlag_of_exec_eq rfl (BitVec.toNat_add _ _)⟩

/-! ## Shifts (R167, R168) -/

theorem toNat_shiftRight_one (a : Byte) : (a >>> 1).toNat = a.toNat / 2 := by
  rw [BitVec.toNat_ushiftRight, Nat.shiftRight_eq_div_pow, pow_one]

theorem toNat_shiftLeft_one (a : Byte) : (a <<< 1).toNat = a.toNat * 2 % 256 := by
  rw [BitVec.toNat_shiftLeft, Nat.shiftLeft_eq, pow_one]

/-- Settles O35: whatever value SHIFT_SOURCE has, the source is the operand it selects. -/
theorem shiftsReportTheBitShiftedOut : Obligations.ShiftsReportTheBitShiftedOut := fun x y s =>
  ⟨shiftOperand Config.shiftSource x y s, congrArg (shiftOperand · x y s),
    congrArg (shiftOperand · x y s),
    ⟨encodes_of_encode_op8 rfl rfl,
      loadsWithFlag_of_exec_eq rfl (toNat_shiftRight_one _)⟩,
    ⟨encodes_of_encode_op8 rfl rfl,
      loadsWithFlag_of_exec_eq rfl (toNat_shiftLeft_one _)⟩⟩

/-! ## Random (R169, R171) -/

/-- Settles O36: the source is left as one NextByte leaves it, then V[x] is written. -/
theorem rndMasksOneRandomByte : Obligations.RndMasksOneRandomByte := by
  intro x kk s
  have hreg := (reg_setReg (s.setRng (nextByte s.rng).2) x ((nextByte s.rng).1 &&& kk) x).trans
    (if_pos rfl)
  refine ⟨encodes_of_encode_eq rfl, _, rfl, hreg, rfl, advances_fallThrough _,
    regsKept_setReg _ x _, (Completed.random x kk _ _ rfl).kept.mono (by simp [writes]), ?_⟩
  intro b rest past hs
  have hnext : nextByte s.rng = (b, .fixedSequence rest past) := by rw [hs, nextByte]
  rw [hnext] at hreg ⊢
  exact ⟨hreg, rfl⟩

end Sys2Proof.Claims

/-! # The address register and the memory instructions

Proofs for the statements over spec/43_index_memory.md. The two sides of a store at I are read off
`storeAtI_eq` once, for any bytes; a load has one equation for each side of its bounds check. -/

namespace Sys2Proof.Claims

open Sys2Proof Sys2Proof.Machine

/-! ## The shapes of the statements -/

/-- The words of op F: the low byte selects the operation. -/
theorem encodes_of_encode_opF {i : Instr} {x : RegIdx} {kk : Byte} {w : Nat}
    (h : encode i = wordXKK 15 x kk) (hw : 0xF000 + kk.toNat = w) :
    Encodes i (w + x.val * 256) := by
  have hsum : 15 * 4096 + x.val * 256 + kk.toNat = w + x.val * 256 := by omega
  exact encodes_of_encode_eq (h.trans (congrArg (BitVec.ofNat 16) hsum))

theorem loadsIndex_of_exec_eq {i : Instr} {s : State} {a : Word} {n : Nat}
    (h : exec i s = .next (s.setI a).fallThrough) (ha : a.toNat = n) : LoadsIndex i s n :=
  ⟨_, h, ha, advances_fallThrough _,
    (kept_setI (by simp) a).trans (kept_fallThrough (by simp))⟩

/-- An access at I that does not lie in memory reports the first address above 4095. -/
theorem faults_of_exec_eq_raise_max {i : Instr} {s : State}
    (h : exec i s = raise .memoryOutOfBounds i (max (baseAddr s) 4096) s) :
    Faults i s 2 (max s.iReg.toNat 4096) :=
  faults_of_exec_eq_raise h (reports_lt (reports_max (baseAddr_lt s)))

section Store

variable {i : Instr} {s : State} {bytes : List Byte}

theorem faults_of_exec_eq_storeAtI (h : exec i s = storeAtI i bytes s) (hpos : 0 < bytes.length)
    (hout : 4096 < s.iReg.toNat + bytes.length) : Faults i s 2 (max s.iReg.toNat 4096) := by
  have hinvalid : ¬ (bytes.length = 0 ∨ baseAddr s + bytes.length ≤ 4096) := by
    rw [baseAddr]; omega
  exact faults_of_exec_eq_raise_max (h.trans ((storeAtI_eq i bytes s).trans (if_neg hinvalid)))

/-- A store at I within memory: its bytes are read back, and nothing but them and PC changes. -/
theorem completes_of_exec_eq_storeAtI (h : exec i s = storeAtI i bytes s)
    (hroom : s.iReg.toNat + bytes.length ≤ 4096) : Completes i s fun t =>
      (s.mem.wf → ∀ k, (hk : k < bytes.length) → t.mem.byteAt (baseAddr s + k) = bytes[k]) ∧
      BytesKept (baseAddr s) bytes.length s t ∧ Advances 2 s t ∧ Kept [.memory, .pc] s t :=
  ⟨_, h.trans ((storeAtI_eq i bytes s).trans (if_pos (.inr hroom))),
    fun hwf k hk => byteAt_putBytes_inside bytes (baseAddr s) k hwf.1 hk,
    fun _ ha => byteAt_putBytes_of_outside bytes s.mem ha, advances_fallThrough _,
    (kept_setMem (by simp) _).trans (kept_fallThrough (by simp))⟩

end Store

/-! ## Setting the address register (R190 to R192) -/

/-- Settles O37. -/
theorem ldIAddrLoadsTheAddress : Obligations.LdIAddrLoadsTheAddress := fun addr _ =>
  ⟨encodes_of_encode_eq rfl, loadsIndex_of_exec_eq rfl (toNat_addrValue addr)⟩

theorem exec_addIVx_of_le {x : RegIdx} {s : State} (h : indexSum s x ≤ 0xFFFF) :
    exec (.addIVx x) s = .next (s.setI (BitVec.ofNat 16 (indexSum s x))).fallThrough :=
  if_neg (Nat.not_lt.2 h)

theorem exec_addIVx_of_lt {x : RegIdx} {s : State} (h : 0xFFFF < indexSum s x) :
    exec (.addIVx x) s = raise .memoryOutOfBounds (.addIVx x) (indexSum s x) s :=
  if_pos h

/-- A sum of a 16-bit and an 8-bit number fits the 17 bits of FADDR. -/
theorem indexSum_lt (s : State) (x : RegIdx) : indexSum s x < 2 ^ 17 := by
  have := s.iReg.isLt
  have := (s.reg x).isLt
  rw [indexSum]
  omega

/-- Settles O38: the sum that is checked is the one that is stored or reported. -/
theorem addIVxAddsOrFaults : Obligations.AddIVxAddsOrFaults := fun x s =>
  ⟨encodes_of_encode_opF rfl rfl,
    fun hfits => loadsIndex_of_exec_eq (exec_addIVx_of_le hfits)
      (Nat.mod_eq_of_lt (Nat.lt_succ_of_le hfits)),
    fun hout => faults_of_exec_eq_raise (exec_addIVx_of_lt hout) (indexSum_lt s x)⟩

/-- The product always fits I. -/
theorem toNat_glyphAddr (v : Byte) : (glyphAddr v).toNat = v.toNat * 5 := by
  have := v.isLt
  exact Nat.mod_eq_of_lt (show v.toNat * 5 < 2 ^ 16 by omega)

/-- Settles O39. -/
theorem ldFVxPointsAtTheGlyph : Obligations.LdFVxPointsAtTheGlyph := fun _ _ =>
  ⟨encodes_of_encode_opF rfl rfl, loadsIndex_of_exec_eq rfl (toNat_glyphAddr _)⟩

/-! ## Stores (R193, R194) -/

/-- Each digit is below 256, so storing it as a byte loses nothing. -/
theorem exists_bcdDigits_eq (v : Byte) : ∃ hundreds tens ones : Byte,
    bcdDigits v = [hundreds, tens, ones] ∧ hundreds.toNat = v.toNat / 100 ∧
      tens.toNat = v.toNat / 10 % 10 ∧ ones.toNat = v.toNat % 10 := by
  have := v.isLt
  exact ⟨_, _, _, rfl, Nat.mod_eq_of_lt (by omega), Nat.mod_eq_of_lt (by omega),
    Nat.mod_eq_of_lt (by omega)⟩

/-- Settles O40: a store of the three digits. -/
theorem ldBVxStoresThreeDigits : Obligations.LdBVxStoresThreeDigits := by
  intro x s
  obtain ⟨hundreds, tens, ones, hdigits, hhundreds, htens, hones⟩ := exists_bcdDigits_eq (s.reg x)
  have hexec : exec (.ldBVx x) s = storeAtI (.ldBVx x) [hundreds, tens, ones] s :=
    congrArg (storeAtI (.ldBVx x) · s) hdigits
  refine ⟨encodes_of_encode_opF rfl rfl,
    fun hout => faults_of_exec_eq_storeAtI hexec (by simp) (Nat.succ_lt_succ hout),
    fun hroom => ?_⟩
  obtain ⟨t, ht, hread, hrest⟩ := completes_of_exec_eq_storeAtI hexec (Nat.succ_le_succ hroom)
  refine ⟨t, ht, ?_, hrest⟩
  rintro hwf a rfl
  exact ⟨hhundreds ▸ congrArg BitVec.toNat (hread hwf 0 (by simp)),
    htens ▸ congrArg BitVec.toNat (hread hwf 1 (by simp)),
    hones ▸ congrArg BitVec.toNat (hread hwf 2 (by simp))⟩

/-- Settles O41: a store of the registers up to x, in order. -/
theorem ldMemIVxStoresTheRegisters : Obligations.LdMemIVxStoresTheRegisters := by
  intro x s
  have hlen : (regRange s x).length = x.val + 1 := length_regRange s x
  refine ⟨encodes_of_encode_opF rfl rfl,
    fun hout => faults_of_exec_eq_storeAtI (bytes := regRange s x) rfl (by omega) (by omega),
    fun hroom => ?_⟩
  obtain ⟨t, ht, hread, hkept, hrest⟩ := completes_of_exec_eq_storeAtI (i := .ldMemIVx x)
    (bytes := regRange s x) rfl (by omega)
  refine ⟨t, ht, ?_, hlen ▸ hkept, hrest⟩
  rintro hwf a rfl r hr
  have hin : r.val < (regRange s x).length := by rw [hlen]; exact Nat.lt_succ_of_le hr
  rw [hread hwf r.val hin, getElem_regRange, Fin.ofNat_val_eq_self]

/-! ## Loads (R195) -/

theorem exec_ldVxMemI_of_le {x : RegIdx} {s : State} (h : s.iReg.toNat + x.val ≤ 4095) :
    exec (.ldVxMemI x) s =
      .next (loadRegs 0 (bytesFrom s.mem (baseAddr s) (x.val + 1)) s).fallThrough := by
  have hroom : baseAddr s + (x.val + 1) ≤ 4096 := by rw [baseAddr]; omega
  rw [exec, execLdVxMemI, readBytes_eq, if_pos (.inr hroom)]

theorem exec_ldVxMemI_of_lt {x : RegIdx} {s : State} (h : 4095 < s.iReg.toNat + x.val) :
    exec (.ldVxMemI x) s = raise .memoryOutOfBounds (.ldVxMemI x) (max (baseAddr s) 4096) s := by
  have hinvalid : ¬ (x.val + 1 = 0 ∨ baseAddr s + (x.val + 1) ≤ 4096) := by rw [baseAddr]; omega
  rw [exec, execLdVxMemI, readBytes_eq, if_neg hinvalid]

/-- Settles O42: each register up to x is loaded with the byte at its own offset from I. -/
theorem ldVxMemILoadsTheRegisters : Obligations.LdVxMemILoadsTheRegisters := by
  intro x s
  refine ⟨encodes_of_encode_opF rfl rfl,
    fun hout => faults_of_exec_eq_raise_max (exec_ldVxMemI_of_lt hout), fun hroom => ?_⟩
  have hlen := length_bytesFrom s.mem (baseAddr s) (x.val + 1)
  have hcompleted := Completed.loadRange (s := s) x _ rfl hlen
  refine ⟨_, exec_ldVxMemI_of_le hroom, fun r (hr : r.val ≤ x.val) => ?_, hcompleted.regsKept, ?_,
    hcompleted.kept.mono (by simp [writes])⟩
  · rw [reg_fallThrough, reg_loadRegs _ 0 s r (by omega), dif_pos (by omega), getElem_bytesFrom]
    rfl
  · exact advances_of_pc_eq (by simp)

end Sys2Proof.Claims

/-! # Display: CLS and DRW

Proofs for the statements over spec/44_display.md. What drawing a sprite does to a cell is known pixel
by pixel (`drawSprite_spec`); the first part says it with the sprite bit of the statements instead. -/

namespace Sys2Proof.Claims

open Sys2Proof Sys2Proof.Machine

/-! ## The sprite bit of a cell -/

section Sprite

variable {m : Memory} {base x0 y0 n c : Nat}

theorem spriteBit_iff : spriteBit m base x0 y0 n c = true ↔ ∃ i < n, ∃ k < 8,
    (m.byteAt (base + i)).getLsbD (7 - k) = true ∧ cellIndex (x0 + k) (y0 + i) = c := by
  simp only [spriteBit, cellIndex, List.any_eq_true, List.mem_range, Bool.and_eq_true,
    decide_eq_true_eq]

theorem spriteBit_congr {m' : Memory} (h : ∀ a, m'.byteAt a = m.byteAt a) :
    spriteBit m' base x0 y0 n c = spriteBit m base x0 y0 n c := by
  simp only [spriteBit, h]

/-- Every set bit of a sprite, counted from the least significant, lands on some cell. -/
theorem exists_spriteBit_of_getLsbD {i k : Nat} (hi : i < n) (hk : k < 8)
    (hbit : (m.byteAt (base + i)).getLsbD k = true) :
    ∃ c < 2048, spriteBit m base x0 y0 n c = true :=
  ⟨_, cellIndex_lt _ _, spriteBit_iff.2 ⟨i, hi, 7 - k, by omega, by
    rwa [Nat.sub_sub_self (Nat.le_of_lt_succ hk)], rfl⟩⟩

/-- The pixels of a sprite read from memory, as rows and bits. -/
theorem any_pixels_bytesFrom (P : Nat × Byte × Nat → Bool) :
    (pixels y0 (bytesFrom m base n)).any P = true ↔
      ∃ i < n, ∃ k < 8, P (y0 + i, m.byteAt (base + i), k) = true := by
  rw [List.any_eq_true]
  constructor
  · rintro ⟨⟨y, row, k⟩, hq, hP⟩
    obtain ⟨i, hi, rfl, rfl, hk⟩ := mem_pixels.1 hq
    rw [length_bytesFrom] at hi
    rw [getElem_bytesFrom] at hP
    exact ⟨i, hi, k, hk, hP⟩
  · rintro ⟨i, hi, k, hk, hP⟩
    have hlen : i < (bytesFrom m base n).length := by rwa [length_bytesFrom]
    exact ⟨_, mem_pixels.2 ⟨i, hlen, rfl, (getElem_bytesFrom m base n i hlen).symm, hk⟩, hP⟩

/-- R212 (b): each cell is exclusive-ored with its sprite bit. -/
theorem cell_drawSprite (f : Framebuffer) (hn : n ≤ 32) (c : Nat) :
    (drawSprite x0 y0 (bytesFrom m base n) f).1.cell c =
      (f.cell c ^^ spriteBit m base x0 y0 n c) := by
  rw [(drawSprite_spec x0 y0 _ f (by rwa [length_bytesFrom])).1 c]
  congr 1
  rw [Bool.eq_iff_iff, any_pixels_bytesFrom, spriteBit_iff]
  simp only [Bool.and_eq_true, decide_eq_true_eq, eq_comm (a := c)]

/-- R212 (b): a hit is a lit cell with a set sprite bit. -/
theorem hit_drawSprite (f : Framebuffer) (hn : n ≤ 32) :
    (drawSprite x0 y0 (bytesFrom m base n) f).2 = true ↔
      ∃ c < 2048, f.cell c = true ∧ spriteBit m base x0 y0 n c = true := by
  rw [(drawSprite_spec x0 y0 _ f (by rwa [length_bytesFrom])).2, any_pixels_bytesFrom]
  simp only [Bool.and_eq_true, spriteBit_iff]
  constructor
  · rintro ⟨i, hi, k, hk, hbit, hlit⟩
    exact ⟨_, cellIndex_lt _ _, hlit, i, hi, k, hk, hbit, rfl⟩
  · rintro ⟨_, -, hlit, i, hi, k, hk, hbit, rfl⟩
    exact ⟨i, hi, k, hk, hbit, hlit⟩

end Sprite

theorem flagByte_eq_one {b : Bool} : flagByte b = 1 ↔ b = true := by
  cases b <;> decide

theorem flagByte_eq_zero_or_one (b : Bool) : flagByte b = 0 ∨ flagByte b = 1 := by
  cases b <;> decide

/-! ## DRW (R211, R212) -/

theorem exec_drwVxVyN_of_le {x y : RegIdx} {n : BitVec 4} {s : State}
    (h : n.toNat = 0 ∨ baseAddr s + n.toNat ≤ 4096) :
    exec (.drwVxVyN x y n) s =
      let drawn := drawSprite (s.reg x).toNat (s.reg y).toNat
        (bytesFrom s.mem (baseAddr s) n.toNat) s.fb
      .next ((s.setFb drawn.1).setReg vf (collisionFlag drawn.2)).fallThrough := by
  rw [exec, execDrwVxVyN, spriteRows, readBytes_eq, if_pos h]

theorem exec_drwVxVyN_of_lt {x y : RegIdx} {n : BitVec 4} {s : State}
    (h : ¬ (n.toNat = 0 ∨ baseAddr s + n.toNat ≤ 4096)) :
    exec (.drwVxVyN x y n) s =
      raise .memoryOutOfBounds (.drwVxVyN x y n) (max (baseAddr s) 4096) s := by
  rw [exec, execDrwVxVyN, spriteRows, readBytes_eq, if_neg h]

/-- Settles O46: the sprite is read before anything is drawn, and VF is the flag of its hits. -/
theorem drwXorsTheSpriteAndReportsCollision : Obligations.DrwXorsTheSpriteAndReportsCollision := by
  intro x y n s
  have hn : n.toNat ≤ 32 := by have := n.isLt; omega
  refine ⟨encodes_of_encode_eq rfl, fun hout => ?_, fun hroom => ?_⟩
  · exact faults_of_exec_eq_raise_max (exec_drwVxVyN_of_lt (by rw [baseAddr]; omega))
  · have hvf (f : Framebuffer) (b : Byte) : ((s.setFb f).setReg vf b).fallThrough.reg vf = b := by
      rw [reg_fallThrough, reg_setReg, if_pos rfl]
    refine ⟨_, exec_drwVxVyN_of_le (by rw [baseAddr]; omega), fun c _ => cell_drawSprite s.fb hn c,
      ?_, ?_, advances_fallThrough _, regsKept_setReg _ vf _,
      ((kept_setFb (by simp) _).trans (kept_setReg (by simp) vf _)).trans
        (kept_fallThrough (by simp))⟩
    · rw [hvf]
      exact flagByte_eq_one.trans (hit_drawSprite s.fb hn)
    · rw [hvf]
      exact flagByte_eq_zero_or_one _

/-- Settles O48, from what one draw does (O46): the second draw has the sprite bits of the first, so
the two exclusive-ors cancel, and a cell with a set sprite bit is lit before the second draw exactly
when it was off before the first. -/
theorem drawingTwiceRestoresTheFramebuffer : Obligations.DrawingTwiceRestoresTheFramebuffer := by
  intro x y n s hroom
  obtain ⟨t, ht, hcell, hhit, hflag, -, -, hkept⟩ :=
    (drwXorsTheSpriteAndReportsCollision x y n s).2.2 (by omega)
  refine ⟨t, ht, fun t' hframe hmem hindex hx hy => ?_⟩
  have hindex' : t'.iReg = s.iReg := hindex.trans (hkept .index (by simp))
  have hmem' (a : Nat) : t'.mem.byteAt a = s.mem.byteAt a :=
    (hmem a).trans (hkept .memory (by simp) a)
  obtain ⟨u, hu, hcell', hhit', -⟩ :=
    (drwXorsTheSpriteAndReportsCollision x y n t').2.2 (by rw [hindex']; omega)
  simp only [hindex', hx, hy, spriteBit_congr hmem'] at hcell' hhit'
  have hlit (c : Nat) (hc : c < 2048) := (hframe c hc).trans (hcell c hc)
  have hsecond : u.reg vf = 1 ↔ ∃ c < 2048, s.fb.cell c = false ∧
      spriteBit s.mem s.iReg.toNat (s.reg x).toNat (s.reg y).toNat n.toNat c = true := by
    rw [hhit']
    refine exists_congr fun c => and_congr_right fun hc => and_congr_left fun hbit => ?_
    rw [hlit c hc, hbit, Bool.xor_true, Bool.not_eq_true']
  refine ⟨u, hu, fun c hc => ?_, hsecond, fun hoff ⟨i, k, hi, hk, hbit⟩ => ⟨?_, ?_⟩⟩
  · rw [hcell' c hc, hlit c hc, Bool.xor_assoc, Bool.xor_self, Bool.xor_false]
  · refine hflag.resolve_right fun h1 => ?_
    obtain ⟨c, hc, hon, -⟩ := hhit.1 h1
    exact Bool.false_ne_true ((hoff c hc).symm.trans hon)
  · obtain ⟨c, hc, hset⟩ := exists_spriteBit_of_getLsbD hi hk hbit
    exact hsecond.2 ⟨c, hc, hoff c hc, hset⟩

/-- Settles O47: 15 rows and 8 columns are fewer than the plane has, so no two of them wrap onto one
another. -/
theorem oneDrawTogglesACellAtMostOnce : Obligations.OneDrawTogglesACellAtMostOnce := by
  intro x0 y0 i k i' k' hi hi' hk hk' h
  obtain ⟨hcolumn, hrow⟩ := cellIndex_inj.1 h
  omega

/-! ## CLS (R210) -/

/-- Settles O45. -/
theorem clsTurnsEveryCellOff : Obligations.ClsTurnsEveryCellOff :=
  ⟨encodes_of_encode_eq rfl, fun _ => ⟨_, rfl, fun c _ => cell_clear c, advances_fallThrough _,
    (kept_setFb (by simp) _).trans (kept_fallThrough (by simp))⟩⟩

end Sys2Proof.Claims

/-! # Keypad skips and delay timer

Proofs for the statements over spec/45_keypad_timers.md. The bounds check of `Key` gives SKP and
SKNP one equation of `exec` on each side; a step whose instruction takes no fault is its effect,
then one tick (`exists_ticked_of_exec`). -/

namespace Sys2Proof.Claims

open Sys2Proof Sys2Proof.Machine

/-! ## SKP and SKNP (R230, R231, R234) -/

/-- The words that op and their low byte select, for any op: those of op E and op F among them. -/
theorem encodes_of_encode_wordXKK {i : Instr} {op w : Nat} {x : RegIdx} {kk : Byte}
    (h : encode i = wordXKK op x kk) (hw : op * 4096 + kk.toNat = w) :
    Encodes i (w + x.val * 256) := by
  have hsum : op * 4096 + x.val * 256 + kk.toNat = w + x.val * 256 := by
    rw [← hw, Nat.add_right_comm]
  exact encodes_of_encode_eq (h.trans (congrArg (BitVec.ofNat 16) hsum))

section Key

variable {x : RegIdx} {s : State}

theorem exec_skpVx_of_lt (h : 15 < (s.reg x).toNat) :
    exec (.skpVx x) s = raise .keyIndexOutOfRange (.skpVx x) 0 s := by
  rw [exec, execSkpVx, keyState_eq, if_neg (Nat.not_le.2 h)]

theorem exec_skpVx_of_le (h : (s.reg x).toNat ≤ 15) :
    exec (.skpVx x) s = .next (s.skipIf (s.keys.getLsbD (s.reg x).toNat)) := by
  rw [exec, execSkpVx, keyState_eq, if_pos h]

theorem exec_sknpVx_of_lt (h : 15 < (s.reg x).toNat) :
    exec (.sknpVx x) s = raise .keyIndexOutOfRange (.sknpVx x) 0 s := by
  rw [exec, execSknpVx, keyState_eq, if_neg (Nat.not_le.2 h)]

theorem exec_sknpVx_of_le (h : (s.reg x).toNat ≤ 15) :
    exec (.sknpVx x) s = .next (s.skipIf (!s.keys.getLsbD (s.reg x).toNat)) := by
  rw [exec, execSknpVx, keyState_eq, if_pos h]

end Key

/-- Settles O49, by the bounds check on V[x]: SKNP skips on the negated key bit. -/
theorem keypadSkipsTestTheNamedKey : Obligations.KeypadSkipsTestTheNamedKey := fun _ _ =>
  ⟨encodes_of_encode_wordXKK rfl rfl, encodes_of_encode_wordXKK rfl rfl,
    fun hout => ⟨faults_of_exec_eq_raise (exec_skpVx_of_lt hout) (by decide),
      faults_of_exec_eq_raise (exec_sknpVx_of_lt hout) (by decide)⟩,
    fun hin => ⟨skips_of_exec_eq_skipIf (exec_skpVx_of_le hin) Iff.rfl,
      skips_of_exec_eq_skipIf (exec_sknpVx_of_le hin) (.of_eq (Bool.not_eq_true' _))⟩⟩

/-! ## LD Vx,DT and LD DT,Vx (R232, R233) -/

/-- A step whose instruction leaves a state in RUN ends in one tick of that state
(spec/40_step_cycle.md R125). -/
theorem exists_ticked_of_exec {i : Instr} {s t : State} (hm : s.mode = .run)
    (hpc : s.pc.toNat < 4095) (hd : decode (wordAt s) = .ok i) (h : exec i s = .next t)
    (ht : t.mode = .run) : ∃ u, step s = .next u ∧ Ticked t u := by
  rw [step_of_decode hm hpc hd, h]
  exact (stepEnds_finishStep t).2 ht

/-- Settles O50: the tick that ends the step counts down from the DT the instruction leaves, V[x]
for Fx15 and the old DT for Fx07, and writes no register. -/
theorem delayTimerIsReadAndSetBeforeTheTick : Obligations.DelayTimerIsReadAndSetBeforeTheTick := by
  intro x s
  refine ⟨⟨encodes_of_encode_opF rfl rfl, loads_of_exec_eq rfl⟩,
    ⟨encodes_of_encode_opF rfl rfl, _, rfl, rfl, advances_fallThrough _,
      (kept_setDt (by simp) _).trans (kept_fallThrough (by simp))⟩,
    fun hm hpc hd => ?_, fun hm hpc hd => ?_⟩
  · obtain ⟨u, hu, hdt, -⟩ := exists_ticked_of_exec hm hpc hd rfl hm
    exact ⟨u, hu, hdt⟩
  · obtain ⟨u, hu, hdt, -, -, -, hkept⟩ := exists_ticked_of_exec hm hpc hd rfl hm
    have hreg : (s.setReg x s.dt).fallThrough.reg x = s.dt :=
      (reg_setReg s x s.dt x).trans (if_pos rfl)
    exact ⟨u, hu, (hkept .regs (by simp) x).trans hreg, hdt⟩

end Sys2Proof.Claims

/-! # Faults and timers

Proofs for the statements over spec/60_exceptions.md. What a step can do (`step_cases`) gives every
fault its cause, the fault entry (`faultEntry_takeFault`) its precision; the timers follow from one
tick (`ticked_tick`). -/

namespace Sys2Proof.Claims

open Sys2Proof Sys2Proof.Machine

/-! ## Faults (R250, R251, R257, R258) -/

/-- Settles O53. -/
theorem takingAFaultRecordsItAndHalts : Obligations.TakingAFaultRecordsItAndHalts :=
  fun c w _ s ha => ⟨faultEntry_takeFault c w ha s, code_bounds c⟩

/-- A step from RUN to HALT is a fault entry. -/
theorem exists_faultEntry_of_step {s t : State} (hm : s.mode = .run) (h : step s = .next t)
    (hhalt : t.mode = .halt) : ∃ code opcode addr, FaultEntry code opcode addr s t := by
  obtain hrun | ⟨c, w, a, ha, rfl⟩ := run_or_takeFault_of_step hm h
  · cases hhalt.symm.trans hrun
  · exact ⟨_, _, _, faultEntry_takeFault c w (reports_lt ha) s⟩

/-- Settles O54: a fault entry keeps all but the control state and the ports, and the phase the step
ends in names the cause; an instruction's own word is the word it was decoded from. -/
theorem faultsArePreciseAndHaveTheirCause : Obligations.FaultsArePreciseAndHaveTheirCause := by
  intro s t hm h hhalt
  obtain ⟨_, _, _, -, -, hfpc, -, -, hbeep, -, hkept⟩ := exists_faultEntry_of_step hm h hhalt
  refine ⟨hkept .regs (by simp), hkept, hfpc, hbeep, ?_⟩
  cases step_cases h with
  | halted hm' => cases hm.symm.trans hm'
  | fetchFault _ hpc => exact .inl ⟨rfl, rfl, hpc⟩
  | decodeFault _ hpc hd => exact .inr ⟨hpc, rfl, .inl ⟨rfl, _, hd⟩⟩
  | executeFault _ hpc hd hc => exact .inr ⟨hpc, encode_of_decode hd, .inr ⟨_, hd, hc⟩⟩
  | completed _ _ _ hu => cases hhalt.symm.trans (hu.control.1.trans hm)

/-- Settles O13: a word that decodes to no instruction decodes to an error, where the step ends. -/
theorem illegalWordFaultsAtItsFetch : Obligations.IllegalWordFaultsAtItsFetch := by
  intro s hm hpc hillegal
  cases hd : decode (wordAt s) with
  | ok i => exact absurd hd (hillegal i)
  | error e =>
    exact ⟨_, step_of_decodeFault hm hpc hd,
      faultEntry_takeFault .decodeFailure (wordAt s) (by decide) s⟩

/-! ## Timers (R263, R266) -/

/-- Settles O8. -/
theorem tickCountsBothTimersDown : Obligations.TickCountsBothTimersDown := ticked_tick

/-- Settles O9, by induction on the number of ticks. -/
theorem repeatedTicksReachZeroAndStay : Obligations.RepeatedTicksReachZeroAndStay := by
  intro k s
  induction k with
  | zero => exact ⟨rfl, rfl⟩
  | succ k ih =>
    obtain ⟨hdt, hst⟩ := ih
    obtain ⟨hdt', hst', -⟩ := ticked_tick (tick^[k] s)
    rw [Function.iterate_succ_apply', hdt', hst', hdt, hst]
    exact ⟨Nat.sub_sub .., Nat.sub_sub ..⟩

section Decoupled

variable {s : State}

theorem afterExecute_decoupled_of_run (h : s.mode = .run) :
    afterExecute .decoupled s = s.setBeep false := by
  simp only [afterExecute, h]

theorem afterExecute_of_halt (h : s.mode = .halt) (m : Config.TickMode) : afterExecute m s = s := by
  simp only [afterExecute, h]

theorem tickEvent_decoupled_of_run (h : s.mode = .run) : tickEvent .decoupled s = tick s := by
  simp only [tickEvent, h]

theorem tickEvent_of_halt (h : s.mode = .halt) (m : Config.TickMode) : tickEvent m s = s := by
  cases m with
  | coupled => rfl
  | decoupled => simp only [tickEvent, h]

end Decoupled

/-- Settles O10, mode by mode: in RUN a decoupled step ends by clearing the beep port, and the tick
event is one tick. -/
theorem decoupledTicksAreTheHostsOwn : Obligations.DecoupledTicksAreTheHostsOwn := by
  refine fun s => ⟨fun hrun => ?_, fun hhalt => ?_⟩
  · rw [afterExecute_decoupled_of_run hrun, tickEvent_decoupled_of_run hrun]
    exact ⟨rfl, rfl, kept_setBeep (by simp) false, ticked_tick s⟩
  · exact ⟨afterExecute_of_halt hhalt _, tickEvent_of_halt hhalt _⟩

end Sys2Proof.Claims

/-! # Reset and hazards: the sound timer, the delay timer, finished programs

Proofs for the statements over spec/70_reset_and_hazards.md. No instruction writes ST and only
LD DT,Vx writes DT, so in every other step the tick alone moves the timers; a jump to itself leaves
its state to that tick. -/

namespace Sys2Proof.Claims

open Sys2Proof Sys2Proof.Machine

/-! ## The timers in the access matrix (spec/10_state.md R39) -/

theorem sound_notMem_writes (i : Instr) : .sound ∉ writes i := by
  cases i <;> simp [writes]

theorem delay_mem_writes {i : Instr} : .delay ∈ writes i ↔ ∃ x, i = .ldDtVx x := by
  cases i <;> simp [writes]

/-! ## The sound timer (R313, spec/60_exceptions.md R264) -/

/-- ST is 0 and no beep is emitted. -/
def Silent (s : State) : Prop := s.st = 0 ∧ s.beep = false

theorem silent_tick {s : State} (h : s.st = 0) : Silent (tick s) := by
  rw [Silent, st_tick, beep_tick, h]
  decide

/-- With ST = 0 a step emits no beep and leaves ST at 0: a fault or a halted step writes no timer, a
completed instruction leaves ST to the tick. -/
theorem silent_of_step {s t : State} (hst : s.st = 0) (h : step s = .next t) : Silent t := by
  cases step_cases h with
  | halted | fetchFault | decodeFault | executeFault => exact ⟨hst, rfl⟩
  | @completed i u _ _ _ hu =>
    have hsound : u.st = s.st := hu.kept .sound (sound_notMem_writes i)
    exact silent_tick (hsound.trans hst)

theorem silent_loadProgram {s : State} (h : Silent s) (bytes : List Byte) :
    Silent (loadProgram bytes s).2 := by
  obtain ⟨hst, hbeep⟩ := h
  have hkept := kept_loadProgram bytes s
  exact ⟨(hkept .sound (by simp)).trans hst, (hkept .ports (by simp)).2.trans hbeep⟩

theorem silent_hostEvent {e : HostEvent} {s t : State} (hs : Silent s)
    (h : hostEvent e s = .next t) : Silent t := by
  cases e with
  | reset => cases h; exact ⟨rfl, rfl⟩
  | load bytes => cases h; exact silent_loadProgram hs bytes
  | step keys => exact silent_of_step (s := s.setKeys keys) hs.1 h
  | tick => cases h; exact hs

/-- What every host transaction keeps, every run of transactions keeps. -/
theorem hostRun_keeps {P : State → Prop}
    (hP : ∀ {e : HostEvent} {s t : State}, P s → hostEvent e s = .next t → P t)
    {es : List HostEvent} {s t : State} (hs : P s) (h : hostRun es s = .next t) : P t := by
  induction es generalizing s with
  | nil => cases h; exact hs
  | cons e rest ih =>
    obtain ⟨u, hu⟩ := exists_hostEvent_eq_next e s
    rw [hostRun, hu] at h
    exact ih (hP hs hu) h

/-- Settles O58: silence is kept by every transaction, so by every run of them. -/
theorem soundTimerStaysDead : Obligations.SoundTimerStaysDead :=
  fun _ _ _ hst hbeep h => hostRun_keeps silent_hostEvent ⟨hst, hbeep⟩ h

/-! ## The delay timer (R304, spec/60_exceptions.md R265) -/

/-- Settles O51: a step that ends in RUN completed its instruction, which leaves DT to the tick
unless it is LD DT,Vx. -/
theorem delayTimerCountsInstructions : Obligations.DelayTimerCountsInstructions := by
  intro s t hm h hrun hload
  cases step_cases h with
  | halted hhalt => cases hm.symm.trans hhalt
  | fetchFault | decodeFault | executeFault => cases hrun
  | @completed i u _ _ hd hu =>
    have hw : .delay ∉ writes i := fun hw => by
      obtain ⟨x, rfl⟩ := delay_mem_writes.1 hw
      exact hload x hd
    have hdelay : u.dt = s.dt := hu.kept .delay hw
    rw [dt_tick, toNat_countDown, hdelay]

/-! ## Finished programs (R312) -/

/-- A fetch that answers a word answers the word at PC, which lies within memory
(spec/40_step_cycle.md R122). -/
theorem eq_wordAt_of_fetch {s : State} {w : Word} (h : fetch s = .ok w) :
    s.pc.toNat < 4095 ∧ w = wordAt s := by
  rw [fetch_eq] at h
  split at h
  · next hpc =>
    cases h
    exact ⟨hpc, rfl⟩
  · cases h

/-- A finished state is in RUN, and the word at PC is a jump to PC. -/
theorem jump_of_finished {s : State} (h : s.finished = true) :
    s.mode = .run ∧ s.pc.toNat < 4095 ∧
      ∃ addr, decode (wordAt s) = .ok (.jpAddr addr) ∧ addr.toNat = s.pc.toNat := by
  unfold State.finished at h
  split at h
  · next w hm hw =>
    obtain ⟨hpc, rfl⟩ := eq_wordAt_of_fetch hw
    split at h
    · next addr hd => exact ⟨hm, hpc, addr, hd, beq_iff_eq.1 h⟩
    · cases h
  · cases h

/-- A jump to PC leaves the state as it is. -/
theorem exec_jpAddr_self {s : State} {addr : Addr12} (h : addr.toNat = s.pc.toNat) :
    exec (.jpAddr addr) s = .next s := by
  have haddr : addrValue addr = s.pc := BitVec.eq_of_toNat_eq ((toNat_addrValue addr).trans h)
  rw [exec, execJpAddr, haddr, State.setPc]

/-- The tick touches nothing that `State.finished` reads. -/
theorem finished_tick (s : State) : (tick s).finished = s.finished := rfl

/-- A step of a finished program is one tick. -/
theorem step_of_finished {s : State} (h : s.finished = true) : step s = .next (tick s) := by
  obtain ⟨hm, hpc, addr, hd, haddr⟩ := jump_of_finished h
  rw [step_of_decode hm hpc hd, exec_jpAddr_self haddr, finishStep, afterExecute_coupled,
    if_neg (by simp [hm])]

/-- Settles O17: the step is one tick, which keeps all but the timers and the ports. -/
theorem finishedProgramStaysFinished : Obligations.FinishedProgramStaysFinished := fun s h =>
  ⟨tick s, step_of_finished h, (finished_tick s).trans h, toNat_countDown s.dt,
    kept_tick (by simp) (by simp) (by simp)⟩

end Sys2Proof.Claims
